-- ==== Sys2Proof/Word.lean ====
section
/-! DEFINITION. The word types of the engine (00_scope.md R8, R14): a byte, the two kinds of word the
engine and its host deal in (30_encoding.md R90, R93), and the control position PHASE (10_state.md R27).
Numbers are naturals wherever the spec computes; a register is a bit vector of the width 10_state.md gives. -/

namespace Sys2Proof

/-- One byte of the message or of the result. -/
abbrev Byte := BitVec 8

/-- A word that is decoded: the 17-bit command word (R90) or the 6-bit control word (R93). -/
inductive CodeWord where
  | cmd (w : BitVec 17)
  | cw (w : BitVec 6)
deriving DecidableEq, Repr

/-- PHASE, the engine's control position; its eight codes are those of 10_state.md R27
(`Phase.code` in Decode.lean). -/
inductive Phase where
  | idle | select | init | absorb | fold | emit | done | error
deriving DecidableEq, Repr

end Sys2Proof
end

