-- ==== Sys2Proof/Config.lean ====
section
/-! DEFINITION. What an implementation fixes (00_scope.md R6, R7) and the free values. The values of the
parameters D0 leaves open and a test could show wrong, PTAB and SER_MODE, are in Machine/Params.lean. -/

namespace Sys2Proof.Config

/-- LEN_MIN (R6). -/
def lenMin : Nat := 16

/-- LEN_MAX (R6). -/
def lenMax : Nat := 1024

/-- DW, the datapath width (R6). -/
def dw : Nat := 1024

/-- W, the limb width (R7): 32 is the value taken; the limb functions take any width (R161). -/
def limbW : Nat := 32

/-- NLIMB (R7). -/
def nlimb : Nat := 32

/-- LEN_W (R7). -/
def lenW : Nat := 16

/-- MSG_ADDR_W (R7). -/
def msgAddrW : Nat := 32

/-- OBUF_BYTES (R7). -/
def obufBytes : Nat := 129

/-- SER_MODE (R7): how the result value is serialised (43_toplevel.md R184, R189). -/
inductive SerMode where
  | signedMin
  | unsignedMin
deriving DecidableEq, Repr

/-- One entry of PTAB (10_state.md R38). MODULUS is not stored: it is 2^size (R39). -/
structure PtabEntry where
  size : Nat
  basis : Nat
  prime : Nat
deriving DecidableEq, Repr

/-- PTAB, six entries indexed by k = 0 to 5 (10_state.md R38). -/
abbrev Ptab := Vector PtabEntry 6

/-- The parameters that D0 leaves open and that a micro-operation reads: PTAB, 'a parameter of the step function, not
state' (10_state.md R38; 92_eei_decisions.md D14), and SER_MODE (D9). -/
structure Params where
  ptab : Ptab
  serMode : SerMode
deriving DecidableEq, Repr

/-- A FREE VALUE of width `w`: the value number `slot` of draw number `draw`. It has no body, so
nothing can be proved of it but what holds for every value (92_eei_decisions.md D13: 'a model draws any
value of the register's width, per read'; notes/assumptions/3.md). -/
opaque free (w draw slot : Nat) : BitVec w

/-- A FREE VALUE: the byte at index `i` of M where nothing has been written (notes/assumptions/5.md). It
depends on the index alone, since reading M twice gives the same byte (20_memory.md R63). -/
opaque unwrittenByte (i : Nat) : Byte

end Sys2Proof.Config
end

