-- ==== Sys2Proof/Syntax.lean ====
section
/-! DEFINITION. The instructions: one constructor per row of spec/opcode_table.json.
The two commands carry their LEN field (R90). A control-word row carries the bits of the control word
that its encoding leaves as `x` (R93): `mbm`, `fold`, `last` are bits 2, 1, 0. No meaning reads them,
since every micro-operation reads the registers themselves; they are kept so that decoding drops no bit
(notes/assumptions/18.md). -/

namespace Sys2Proof

inductive Instr where
  /-- `0LLLLLLLLLLLLLLLL`: the START transfer for FNV-1 (43_toplevel.md R171). -/
  | fnv1 (len : BitVec 16)
  /-- `1LLLLLLLLLLLLLLLL`: the START transfer for FNV-1a (43_toplevel.md R172). -/
  | fnv1a (len : BitVec 16)
  /-- `000xxx`: resting after reset (43_toplevel.md R193). -/
  | idle (mbm fold last : Bool)
  /-- `001xxx`: check the length and select the parameters (40_select.md R111, R112). -/
  | sel (mbm fold last : Bool)
  /-- `010xxx`: start the digest at the basis (41_accumulate.md R124). -/
  | ini (mbm fold last : Bool)
  /-- `0110x0`: absorb one byte, multiply then XOR (41_accumulate.md R125). -/
  | abs1 (fold : Bool)
  /-- `0111x0`: absorb one byte, XOR then multiply (41_accumulate.md R126). -/
  | abs1a (fold : Bool)
  /-- `011xx1`: leave the loop (41_accumulate.md R127). -/
  | absx (mbm fold : Bool)
  /-- `100xxx`: fold the digest to LEN bits (42_fold.md R143). -/
  | fld (mbm fold last : Bool)
  /-- `101xxx`: emit the result bytes (43_toplevel.md R185). -/
  | emt (mbm fold last : Bool)
  /-- `110xxx`: resting with a result (43_toplevel.md R193). -/
  | done (mbm fold last : Bool)
  /-- `111xxx`: resting with a refused length (43_toplevel.md R193). -/
  | error (mbm fold last : Bool)
deriving DecidableEq, Repr

end Sys2Proof
end

