-- ==== Sys2Proof/Machine/State.lean ====
section
/-! DEFINITION. The state of one engine and of the host that drives it (10_state.md R20, R27, R32;
20_memory.md R60), as plain data, and the state right after reset (10_state.md R46). -/

namespace Sys2Proof.Machine

open Sys2Proof

/-- Space M (20_memory.md R60): the bytes the host has written, at strictly rising indices. An index that
is not listed has no written value; it reads as `Config.unwrittenByte` (notes/assumptions/5.md). -/
abbrev Memory := List Host.Cell

/-- One move of the host (70_reset_and_hazards.md R243), between two steps of the engine. -/
inductive HostMove where
  /-- The host makes no access: the engine has this turn. -/
  | pass
  /-- WAIT (30_encoding.md R98): the host reads STATUS until BUSY = 0; the engine steps meanwhile. -/
  | wait
  /-- The host writes byte `b` at index `i` of M (20_memory.md R60). -/
  | poke (i : BitVec 32) (b : Byte)
  /-- The host writes `v` at register number `n` (10_state.md R35). -/
  | write (n : Nat) (v : BitVec 32)
  /-- The host reads register number `n` (10_state.md R35). -/
  | read (n : Nat)
  /-- The host takes back a command word that waits (43_toplevel.md R173). -/
  | withdraw
  /-- The reset event (70_reset_and_hazards.md R230). -/
  | reset
deriving DecidableEq, Repr

/-- The whole state. Registers have the names and widths of 10_state.md R20. -/
structure State where
  /-- MSG_LEN (R32). -/
  msgLen : BitVec 32
  /-- MBM (R21). -/
  mbm : Bool
  /-- LEN (R22). -/
  len : BitVec 16
  /-- NBYTES (R23). -/
  nbytes : BitVec 32
  /-- PHASE (R27). -/
  phase : Phase
  /-- SEL (R24). -/
  sel : BitVec 3
  /-- FOLD (R25). -/
  fold : Bool
  /-- DIGEST (R26). -/
  digest : BitVec 1024
  /-- IDX (R28). -/
  idx : BitVec 32
  /-- OBUF (R29). -/
  obuf : Vector Byte 129
  /-- OLEN (R30). -/
  olen : BitVec 8
  /-- ERRVAL (R31). -/
  errval : BitVec 16
  /-- M, the host's message space (20_memory.md R60). -/
  mem : Memory
  /-- The command word that the host offers and the engine has not taken (43_toplevel.md R173). -/
  cmd : Option (BitVec 17)
  /-- What the host's last register read returned (10_state.md R35). -/
  rdata : BitVec 32
  /-- The model's own: the host's moves to come, oldest first (notes/assumptions/7.md). -/
  script : List HostMove
  /-- The model's own: no byte of the running operation's message has been written since START, the
  premise of 20_memory.md R64 (notes/assumptions/6.md). -/
  stable : Bool
  /-- The model's own: how many free values have been drawn (notes/assumptions/3.md). -/
  draws : Nat
deriving DecidableEq, Repr

/-- Where the model stops. The engine's one error, UnsupportedLength, is no fault: it is a next state
(60_exceptions.md R203). -/
inductive Fault where
  /-- Raised by ABS1 and ABS1A when IDX >= NBYTES: `MemRead` is defined for an index below NBYTES only
  (20_memory.md R61). Safe: the spec shows it never happens, and the model stops. -/
  | messageOutOfRange
deriving DecidableEq, Repr

/-- What the model gives no meaning to. -/
inductive Refusal where
  /-- Raised by an arm of exec that has no meaning yet. Safe: the model stops. -/
  | notModelled (mnemonic : String)
  /-- Raised by INI, ABS1, ABS1A and FLD when SEL is 6 or 7, codes that no rule writes and that select no
  size (30_encoding.md R96). Safe: the model stops. -/
  | selReserved
  /-- Raised by FLD when not 0 < LEN < SIZE[SEL]: `fold` is undefined there (42_fold.md R140, R144).
  Safe: the model stops. -/
  | foldOutsideDomain
deriving DecidableEq, Repr

/-- The state right after reset. R46 gives PHASE = IDLE and leaves every other register unspecified: their
zeros are the model's choice (notes/assumptions/1.md), and no statement rests on them. -/
def State.reset : State where
  msgLen := 0
  mbm := false
  len := 0
  nbytes := 0
  phase := .idle
  sel := 0
  fold := false
  digest := 0
  idx := 0
  obuf := Vector.replicate 129 0
  olen := 0
  errval := 0
  mem := []
  cmd := none
  rdata := 0
  script := []
  stable := true
  draws := 0

end Sys2Proof.Machine
end

