-- ==== Sys2Proof/Machine/Arith.lean ====
section
/-! DEFINITION. The pure functions of the spec on naturals (00_scope.md R8, R9, R11): selection
(40_select.md), the multiply and byte-mix steps and the two accumulations (41_accumulate.md), the XOR-fold
(42_fold.md), the serialisation (43_toplevel.md), and the function `hash` they make up (00_scope.md R12).
Those that read a constant take PTAB as an argument (10_state.md R40). -/

namespace Sys2Proof.Machine

open Sys2Proof

/-- `bitlen(v)`: 0 for 0, otherwise the n with 2^(n-1) <= v < 2^n (R8). -/
def bitlen (v : Nat) : Nat := if v = 0 then 0 else Nat.log2 v + 1

/-- The byte `v[8j+7 : 8j]` (R8). -/
def byteAt (v j : Nat) : Byte := BitVec.ofNat 8 (v >>> (8 * j))

/-- SIZE[k] = 32 << k, the canonical sizes (00_scope.md R6, 10_state.md R38). -/
def canonSize (k : Fin 6) : Nat := 32 <<< k.val

/-- What `select` returns: the index, its size and `fold_needed` (40_select.md R110). -/
structure Selection where
  k : Fin 6
  size : Nat
  foldNeeded : Bool
deriving DecidableEq, Repr

/-- `select(L)`: the least canonical size that covers L; `none` is the failure UnsupportedLength(L)
(40_select.md R110, R116). -/
def select (L : Nat) : Option Selection :=
  if Config.lenMin ≤ L ∧ L ≤ Config.lenMax then
    (([0, 1, 2, 3, 4, 5] : List (Fin 6)).find? fun k => decide (L ≤ canonSize k)).map fun k =>
      { k := k, size := canonSize k, foldNeeded := decide (L < canonSize k) }
  else none

/-- The comparator form of the index (40_select.md R115), for 16 <= L <= 1024. DESIGN CHOICE: the sum is total; it
gives 0 below 16 and 5 above 1024, where R115 gives no index and `select` fails, and no meaning uses it
(notes/assumptions/34.md). -/
def selectIndexByComparators (L : Nat) : Nat :=
  [32, 64, 128, 256, 512].countP fun c => decide (c < L)

/-- `mulp(d, k)`: the low SIZE[k] bits of the exact product (41_accumulate.md R121). DESIGN CHOICE: total; R121 defines
it for d < 2^SIZE[k] (notes/assumptions/31.md), and the size is `canonSize k` whatever the table's entry says
(notes/assumptions/33.md). -/
def mulp (p : Config.Ptab) (k : Fin 6) (d : Nat) : Nat := (d * p[k].prime) % 2 ^ canonSize k

/-- `xorb(d, b)`: the byte, masked to its low 8 bits, XORed onto bits 7:0 (41_accumulate.md R122). -/
def xorb (d b : Nat) : Nat := d ^^^ (b &&& 0xFF)

/-- One turn of the accumulation loop, the variant as a Boolean: the one routine of
41_accumulate.md R134. -/
def mix (p : Config.Ptab) (k : Fin 6) (mbm : Bool) (d b : Nat) : Nat :=
  if mbm then mulp p k (xorb d b) else xorb (mulp p k d) b

/-- `accumulate_fnv1` (R128) for `mbm = false` and `accumulate_fnv1a` (R129) for `mbm = true`. -/
def accumulate (p : Config.Ptab) (k : Fin 6) (mbm : Bool) (bytes : List Byte) : Nat :=
  bytes.foldl (fun d b => mix p k mbm d b.toNat) p[k].basis

/-- `fold(d, t)` (42_fold.md R140). Its domain, 0 < t < size, is checked where it is called
(`foldDomain`). DESIGN CHOICE: the formula itself is total, and outside the domain, or on a digest at or above 2^size,
what it answers is no value of the spec's (R144; notes/assumptions/15.md, 31.md). -/
def xorFold (d t : Nat) : Nat := (d ^^^ (d >>> t)) &&& (2 ^ t - 1)

/-- The domain of `fold` for a digest of canonical size SIZE[k] (R140, R144). -/
abbrev foldDomain (k : Fin 6) (t : Nat) : Prop := 0 < t ∧ t < canonSize k

/-- The number of result bytes: SIGNED_MIN (43_toplevel.md R184), UNSIGNED_MIN (R189). -/
def serLen (m : Config.SerMode) (v : Nat) : Nat :=
  match m with
  | .signedMin => bitlen v / 8 + 1
  | .unsignedMin => max 1 ((bitlen v + 7) / 8)

/-- `ser(v)`: the bytes of v, most significant first (R184). -/
def ser (m : Config.SerMode) (v : Nat) : List Byte :=
  (List.range (serLen m v)).map fun i => byteAt v (serLen m v - 1 - i)

/-- The result value of `hash` (00_scope.md R12); `none` is UnsupportedLength(L). -/
def resultValue (p : Config.Ptab) (mbm : Bool) (bytes : List Byte) (L : Nat) : Option Nat :=
  (select L).map fun c =>
    let d := accumulate p c.k mbm bytes
    if c.foldNeeded then xorFold d L else d

/-- `hash(v, bytes, L)` (00_scope.md R12): the result bytes, or `none` for UnsupportedLength(L). -/
def fnvHash (p : Config.Ptab) (m : Config.SerMode) (mbm : Bool) (bytes : List Byte) (L : Nat) :
    Option (List Byte) :=
  (resultValue p mbm bytes L).map (ser m)

end Sys2Proof.Machine
end

