-- ==== Sys2Proof/Decode.lean ====
section
/-! DEFINITION. The encodings of 30_encoding.md: the phase codes (10_state.md R27), format CMD (R90, R92),
format CW and its decode table (R93, R94), the encoder written from the same tables, and the opcode table's
rows as data. Words reach the decoder as bytes for the host's probe (notes/assumptions/10.md). -/

namespace Sys2Proof

/-- The code of a phase (10_state.md R27). -/
def Phase.code : Phase → BitVec 3
  | .idle => 0
  | .select => 1
  | .init => 2
  | .absorb => 3
  | .fold => 4
  | .emit => 5
  | .done => 6
  | .error => 7

/-- The phase of a code: all eight codes are used (10_state.md R27). -/
def Phase.ofCode (c : BitVec 3) : Phase :=
  match c.toNat with
  | 0 => .idle
  | 1 => .select
  | 2 => .init
  | 3 => .absorb
  | 4 => .fold
  | 5 => .emit
  | 6 => .done
  | _ => .error

/-- Format CMD (R90): bit 16 is MBM, bits 15:0 are LEN. -/
def cmdBits (mbm : Bool) (len : BitVec 16) : BitVec 17 := BitVec.ofBool mbm ++ len

/-- Format CW (R93): PHASE in bits 5:3, MBM in bit 2, FOLD in bit 1, LAST in bit 0. -/
def cwBits (phase : Phase) (mbm fold last : Bool) : BitVec 6 :=
  phase.code ++ BitVec.ofBool mbm ++ BitVec.ofBool fold ++ BitVec.ofBool last

/-- The command a 17-bit word stands for (R92). -/
def decodeCmd (w : BitVec 17) : Instr :=
  if w.getLsbD 16 then .fnv1a (w.extractLsb' 0 16) else .fnv1 (w.extractLsb' 0 16)

/-- The micro-operation a 6-bit control word stands for (R93). In phase ABSORB LAST is read first and MBM
only when LAST = 0 (R94). -/
def decodeCw (w : BitVec 6) : Instr :=
  let mbm := w.getLsbD 2
  let fold := w.getLsbD 1
  let last := w.getLsbD 0
  match Phase.ofCode (w.extractLsb' 3 3) with
  | .idle => .idle mbm fold last
  | .select => .sel mbm fold last
  | .init => .ini mbm fold last
  | .absorb => if last then .absx mbm fold else if mbm then .abs1a fold else .abs1 fold
  | .fold => .fld mbm fold last
  | .emit => .emt mbm fold last
  | .done => .done mbm fold last
  | .error => .error mbm fold last

/-- Decoding is total: every word of either format is an instruction (R95, R96). -/
def decode : CodeWord → Instr
  | .cmd w => decodeCmd w
  | .cw w => decodeCw w

/-- Why a string of bytes is no word of either format. -/
inductive DecodeError where
  /-- No byte at all. -/
  | empty
  /-- One byte whose bits 7:6 are not zero: a control word has six bits (R93). -/
  | controlWordTooWide
  /-- Two bytes: too few for the 17 bits of a command word (R90). -/
  | commandTooShort
deriving DecidableEq, Repr

/-- A word from bytes, the first byte holding bits 7:0: one byte is a control word, three or more are a
command word, whose bits above 16 are ignored (R90: 'only bits 16:0 of the written value are used'). -/
def wordOfBytes : List Byte → Except DecodeError CodeWord
  | [] => .error .empty
  | [b] => if b.toNat < 64 then .ok (.cw (b.setWidth 6)) else .error .controlWordTooWide
  | [_, _] => .error .commandTooShort
  | b0 :: b1 :: b2 :: _ => .ok (.cmd ((b2 ++ b1 ++ b0).setWidth 17))

/-- The instruction a string of bytes stands for, or why there is none. -/
def decodeBytes (bs : List Byte) : Except DecodeError Instr := (wordOfBytes bs).map decode

/-- The bytes of a word, least significant first; unused bits zero. -/
def CodeWord.toBytes : CodeWord → List Byte
  | .cw w => [w.setWidth 8]
  | .cmd w => [w.extractLsb' 0 8, w.extractLsb' 8 8, w.extractLsb' 16 8]

/-- The bytes of the opcode-table word `w` of `nbits` bits: one byte for a control word, three for a
command word (the bits above `nbits` zero). -/
def tableBytes (nbits w : Nat) : List Byte :=
  if nbits ≤ 8 then [BitVec.ofNat 8 w]
  else [BitVec.ofNat 8 w, BitVec.ofNat 8 (w >>> 8), BitVec.ofNat 8 (w >>> 16)]

/-- The instruction the decoder reads from an opcode-table word. -/
def decodeTableWord (nbits w : Nat) : Option Instr :=
  match decodeBytes (tableBytes nbits w) with
  | .ok i => some i
  | .error _ => none

/-- The word of an instruction, from the encodings of R92 and R93. -/
def encode : Instr → CodeWord
  | .fnv1 len => .cmd (cmdBits false len)
  | .fnv1a len => .cmd (cmdBits true len)
  | .idle mbm fold last => .cw (cwBits .idle mbm fold last)
  | .sel mbm fold last => .cw (cwBits .select mbm fold last)
  | .ini mbm fold last => .cw (cwBits .init mbm fold last)
  | .abs1 fold => .cw (cwBits .absorb false fold false)
  | .abs1a fold => .cw (cwBits .absorb true fold false)
  | .absx mbm fold => .cw (cwBits .absorb mbm fold true)
  | .fld mbm fold last => .cw (cwBits .fold mbm fold last)
  | .emt mbm fold last => .cw (cwBits .emit mbm fold last)
  | .done mbm fold last => .cw (cwBits .done mbm fold last)
  | .error mbm fold last => .cw (cwBits .error mbm fold last)

/-- The bytes of an instruction's word. -/
def encodeBytes (i : Instr) : List Byte := (encode i).toBytes

/-- The number a word stands for. -/
def CodeWord.toNat : CodeWord → Nat
  | .cmd w => w.toNat
  | .cw w => w.toNat

/-- The format a word has, as the opcode table names it. -/
def CodeWord.format : CodeWord → String
  | .cmd _ => "CMD"
  | .cw _ => "CW"

/-- One row of the operation map: the words `w` of its format with `w and mask = value`. -/
structure OpRow where
  mnemonic : String
  format : String
  value : Nat
  mask : Nat
deriving DecidableEq, Repr

/-- R92's two rows and R93's ten. -/
def opTable : List OpRow :=
  [⟨"FNV1", "CMD", 0x00000, 0x10000⟩, ⟨"FNV1A", "CMD", 0x10000, 0x10000⟩,
   ⟨"IDLE", "CW", 0x00, 0x38⟩, ⟨"SEL", "CW", 0x08, 0x38⟩, ⟨"INI", "CW", 0x10, 0x38⟩,
   ⟨"ABS1", "CW", 0x18, 0x3D⟩, ⟨"ABS1A", "CW", 0x1C, 0x3D⟩, ⟨"ABSX", "CW", 0x19, 0x39⟩,
   ⟨"FLD", "CW", 0x20, 0x38⟩, ⟨"EMT", "CW", 0x28, 0x38⟩, ⟨"DONE", "CW", 0x30, 0x38⟩,
   ⟨"ERROR", "CW", 0x38, 0x38⟩]

/-- Whether a word belongs to a row of the operation map. -/
def OpRow.covers (r : OpRow) (c : CodeWord) : Bool :=
  r.format == c.format && decide (c.toNat &&& r.mask = r.value)

/-- The mnemonic of an instruction's row. -/
def Instr.mnemonic : Instr → String
  | .fnv1 _ => "FNV1"
  | .fnv1a _ => "FNV1A"
  | .idle _ _ _ => "IDLE"
  | .sel _ _ _ => "SEL"
  | .ini _ _ _ => "INI"
  | .abs1 _ => "ABS1"
  | .abs1a _ => "ABS1A"
  | .absx _ _ => "ABSX"
  | .fld _ _ _ => "FLD"
  | .emt _ _ _ => "EMT"
  | .done _ _ _ => "DONE"
  | .error _ _ _ => "ERROR"

end Sys2Proof
end

