-- ==== Sys2Proof/Machine/Flags.lean ====
section
/-! DEFINITION. Every condition bit of the engine (10_state.md R45): STATUS (R33), LAST (R34), the level
outputs (60_exceptions.md R208), and the windows in which a host read is defined (R36). All are computed;
none is state. -/

namespace Sys2Proof.Machine

open Sys2Proof

/-- BUSY: PHASE is SELECT, INIT, ABSORB, FOLD or EMIT (R33). -/
def phaseBusy : Phase → Bool
  | .select | .init | .absorb | .fold | .emit => true
  | .idle | .done | .error => false

/-- STATUS.BUSY (R33). -/
def State.busy (s : State) : Bool := phaseBusy s.phase

/-- STATUS.DONE, and the level output `done` (R33; 60_exceptions.md R208). -/
def State.doneOut (s : State) : Bool := decide (s.phase = .done)

/-- STATUS.ERR, and the level output `err` (R33; 60_exceptions.md R208). -/
def State.errOut (s : State) : Bool := decide (s.phase = .error)

/-- `cmd_ready` = not BUSY (43_toplevel.md R173). -/
def State.cmdReady (s : State) : Bool := !s.busy

/-- The STATUS word: bit 0 BUSY, bit 1 DONE, bit 2 ERR, bits 5:3 PHASE (R33). -/
def State.statusWord (s : State) : BitVec 6 :=
  s.phase.code ++ BitVec.ofBool s.errOut ++ BitVec.ofBool s.doneOut ++ BitVec.ofBool s.busy

/-- LAST: IDX = NBYTES (R34). -/
def State.last (s : State) : Bool := decide (s.idx = s.nbytes)

/-- LEN and MBM are defined in every phase but IDLE (R36). -/
def State.commandValid (s : State) : Bool := decide (s.phase ≠ .idle)

/-- SEL and FOLD are defined from the end of SEL's success to the next START transfer (R36). -/
def State.selectionValid (s : State) : Bool :=
  match s.phase with
  | .init | .absorb | .fold | .emit | .done => true
  | .idle | .select | .error => false

/-- IDX is defined in ABSORB and after, to the next START transfer (R36). -/
def State.indexValid (s : State) : Bool :=
  match s.phase with
  | .absorb | .fold | .emit | .done => true
  | .idle | .select | .init | .error => false

/-- The control word, recomputed from the registers before every step and never stored
(30_encoding.md R93). -/
def State.controlWord (s : State) : BitVec 6 := cwBits s.phase s.mbm s.fold s.last

end Sys2Proof.Machine
end

