-- ==== Sys2Proof/Machine/Limbs.lean ====
section
/-! DEFINITION. The multi-word form of the datapath (44_bigint_multiplier.md): limbs, the truncated
schoolbook multiplier, XOR of a byte and XOR-fold on limbs. A list of limbs holds limb 0 first. The limb width
`W` is an argument (R161); the engine's is 32. -/

namespace Sys2Proof.Machine

open Sys2Proof

/-- The number a list of limbs stands for (R150). -/
def limbsValue {W : Nat} : List (BitVec W) → Nat
  | [] => 0
  | x :: xs => x.toNat + 2 ^ W * limbsValue xs

/-- The low `n` limbs of a number (R150). -/
def limbsOf (W : Nat) : (n v : Nat) → List (BitVec W)
  | 0, _ => []
  | n + 1, v => BitVec.ofNat W v :: limbsOf W n (v >>> W)

/-- The quantity `t` of R151: limb times limb, plus what the column holds, plus the carry; exact. -/
def mwTerm {W : Nat} (r a p c : BitVec W) : Nat := r.toNat + a.toNat * p.toNat + c.toNat

/-- One row of R151: adds `a * p` into the columns `r`, least significant first, with carry `c`. The row
ends where the columns end, and the carry out of the last one is discarded (R153). -/
def mwRow {W : Nat} (a : BitVec W) : (r p : List (BitVec W)) → (c : BitVec W) → List (BitVec W)
  | r :: rs, p :: ps, c =>
    BitVec.ofNat W (mwTerm r a p c) :: mwRow a rs ps (BitVec.ofNat W (mwTerm r a p c >>> W))
  | rs, _, _ => rs

/-- The rows of R151. Column i is final after row i, and row i + 1 starts at column i + 1, so a column
i + j >= n is never formed. -/
def mwRows {W : Nat} : (a r p : List (BitVec W)) → List (BitVec W)
  | [], r, _ => r
  | a :: as, r, p =>
    match mwRow a r p 0 with
    | [] => []
    | r0 :: rs => r0 :: mwRows as rs p

/-- `mw_mul(a, p, n)`, truncated schoolbook multiplication, n being the number of limbs of `a` (R151). DESIGN CHOICE:
R151's operands have n limbs each; where `p` has fewer or more than `a` the function is total all the same, and no
statement speaks of it (notes/assumptions/32.md). -/
def mwMul {W : Nat} (a p : List (BitVec W)) : List (BitVec W) :=
  mwRows a (List.replicate a.length 0) p

/-- `xorb` on limbs: limb 0 only (R157). DESIGN CHOICE: a limb narrower than the byte (W = 1, 2 or 4, which R161
admits) cannot hold `zext_W(b and 0xFF)`; there the low W bits of the byte are taken, limb 0 alone changes as R157
says, and the value is not that of `xorb` (notes/assumptions/30.md). -/
def xorbLimbs {W : Nat} (b : Byte) : List (BitVec W) → List (BitVec W)
  | [] => []
  | x :: xs => (x ^^^ b.setWidth W) :: xs

/-- `fold` on limbs to `t` bits (R156), n being the number of limbs of `x`. R156 defines it for t < W n, and `fold` for
0 < t (42_fold.md R140). DESIGN CHOICE: the function is total; outside, where the spec gives no value (R144), it
answers `x` for t >= W n and zeros for t = 0, no meaning calls it there and no statement speaks of it
(notes/assumptions/15.md). -/
def foldLimbs {W : Nat} (x : List (BitVec W)) (t : Nat) : List (BitVec W) :=
  let q := t / W
  let s := t % W
  (List.range x.length).map fun i =>
    let lo := x.getD (i + q) 0
    let hi := x.getD (i + q + 1) 0
    let sh := (lo >>> s) ||| (hi <<< (W - s))
    let y := x.getD i 0 ^^^ sh
    if q < i then 0 else if i = q then y &&& BitVec.ofNat W (2 ^ s - 1) else y

end Sys2Proof.Machine
end

