-- ==== Sys2Proof/Machine/Operands.lean ====
section
/-! DEFINITION. The operand forms: the immediate LEN (30_encoding.md R91), the selected index SEL
(10_state.md R24), the message byte at IDX (20_memory.md R61, R78), the digest as a number and as limbs
(44_bigint_multiplier.md R150), and the write into OBUF (20_memory.md R66, R78). -/

namespace Sys2Proof.Machine

open Sys2Proof

/-- LEN as a number: unsigned, never sign-extended or scaled (30_encoding.md R91). -/
def State.lenVal (s : State) : Nat := s.len.toNat

/-- The index SEL selects; the codes 6 and 7 select nothing (10_state.md R24, 30_encoding.md R96). -/
def selIndex (c : BitVec 3) : Option (Fin 6) :=
  if h : c.toNat < 6 then some ⟨c.toNat, h⟩ else none

/-- What M holds at an index: the byte written there last, or none. -/
def Memory.read : Memory → Nat → Option Byte
  | [], _ => none
  | (a, v) :: m, i => if a = i then some v else Memory.read m i

/-- The byte of M at an index: a free value where nothing has been written (notes/assumptions/5.md). -/
def Memory.byte (m : Memory) (i : Nat) : Byte := (Memory.read m i).getD (Config.unwrittenByte i)

/-- `MemRead(M, i, 1)` (20_memory.md R61). Once the host has written the running operation's message, R64
lets 'each `MemRead` draw any byte': a free value (notes/assumptions/6.md). -/
def State.memRead (s : State) (i : Nat) : Byte :=
  if s.stable then Memory.byte s.mem i else Config.free 8 s.draws 0

/-- The draws counter after a message read: it moves only when the read drew a free value. -/
def State.drawsAfterRead (s : State) : Nat := if s.stable then s.draws else s.draws + 1

/-- The message of the running operation: the bytes 0 to n-1 of M (20_memory.md R60). -/
def Memory.message (m : Memory) (n : Nat) : List Byte := (List.range n).map (Memory.byte m)

/-- Limb `i` of DIGEST: bits 32i+31 : 32i (44_bigint_multiplier.md R150). DESIGN CHOICE: 0 where there is no such
limb, which nothing asks for (notes/assumptions/34.md). -/
def digestLimb (d : BitVec 1024) (i : Nat) : BitVec 32 := d.extractLsb' (32 * i) 32

/-- `MemWrite(OBUF, i, 1, v)` (20_memory.md R66). DESIGN CHOICE: no effect where there is no such byte, which
nothing writes (notes/assumptions/34.md). -/
def obufWrite (o : Vector Byte 129) (i : Nat) (v : Byte) : Vector Byte 129 := o.setIfInBounds i v

/-- The writes of a list of bytes at consecutive indices from `i` on (R78, mode 2). -/
def obufWriteAll (o : Vector Byte 129) (i : Nat) : List Byte → Vector Byte 129
  | [] => o
  | b :: bs => obufWriteAll (obufWrite o i b) (i + 1) bs

/-- Byte `i` of OBUF. DESIGN CHOICE: 0 where there is no such byte, which nothing asks for
(notes/assumptions/34.md). -/
def obufByte (o : Vector Byte 129) (i : Nat) : Byte := o.toList.getD i 0

end Sys2Proof.Machine
end

