-- ==== Sys2Proof/Machine/Params.lean ====
section
/-! DEFINITION. The values this model takes for the two parameters that no sentence of D0 fixes: the constant table
PTAB (10_state.md R40) and the byte serialisation (43_toplevel.md R184). The step takes them as an argument
(Machine/Parametric.lean); `exec` and `step` are the machine at these values. -/

namespace Sys2Proof.Machine

open Sys2Proof

/-- PTAB (10_state.md R40). PRESUMED: the values are general knowledge, not D0's
(notes/assumptions/11.md); leading zero digits carry no meaning (00_scope.md R8). -/
def ptab : Config.Ptab := #v[
  { size := 32
    basis := 0x811c9dc5
    prime := 0x1000193 },
  { size := 64
    basis := 0xcbf29ce484222325
    prime := 0x100000001b3 },
  { size := 128
    basis := 0x6c62272e07bb014262b821756295c58d
    prime := 0x1000000000000000000013b },
  { size := 256
    basis := 0xdd268dbcaac550362d98c384c4e576ccc8b1536847b6bbb31023b4c8caee0535
    prime := 0x1000000000000000000000000000000000000000163 },
  { size := 512
    basis := 0xb86db0b1171f4416dca1e50f309990acac87d059c90000000000000000000d21e948f68a34c192f62ea79bc942dbe7ce182036415f56e34bac982aac4afe9fd9
    prime := 0x100000000000000000000000000000000000000000000000000000000000000000000000000000000000157 },
  { size := 1024
    basis := 0x5f7a76758ecc4d32e56d5a591028b74b29fc4223fdada16c3bf34eda3674da9a21d9000000000000000000000000000000000000000000000000000000000000000000000000000000000000000000000000000004c6d7eb6e73802734510a555f256cc005ae556bde8cc9c6a93b21aff4b16c71ee90b3
    prime := 0x10000000000000000000000000000000000000000000000000000000000000000000000000000000000000000000000000000000000000000000000000000000000000000000000000000000000000000000000018d }]

/-- SER_MODE: the value the spec takes (00_scope.md R7, decision D9; notes/assumptions/12.md). -/
def serMode : Config.SerMode := .signedMin

/-- The values taken, together. -/
abbrev params : Config.Params := { ptab := ptab, serMode := serMode }

end Sys2Proof.Machine
end

