-- ==== Sys2Proof/Machine/Ops.lean ====
section
/-! DEFINITION. The named operations on the state: each is one atomic assignment of the spec
(00_scope.md R10, R11: all right-hand sides read the values from before the step). Taking the one exception is
`State.raiseUnsupportedLength`; there is no return from it (60_exceptions.md R205), the engine leaves ERROR by
`State.startTransfer` or `State.resetEvent`, which stand beside it. -/

namespace Sys2Proof.Machine

open Sys2Proof

/-- A write at an index of M, keeping the list strictly rising. -/
def Memory.write : Memory → Nat → Byte → Memory
  | [], i, b => [(i, b)]
  | (a, v) :: m, i, b =>
    if i < a then (i, b) :: (a, v) :: m
    else if a = i then (i, b) :: m
    else (a, v) :: Memory.write m i b

/-- The indices of M strictly rise, from `lo` on. -/
def Memory.risingFrom (lo : Nat) : Memory → Bool
  | [] => true
  | (a, _) :: m => decide (lo ≤ a) && Memory.risingFrom (a + 1) m

/-- The canonical form of M: strictly rising indices below 2^32 (20_memory.md R60, R61). An unlisted
index has no value of its own, so no entry can equal what it reads as (notes/assumptions/5.md). -/
def Memory.wf (m : Memory) : Bool := Memory.risingFrom 0 m && m.all fun c => decide (c.1 < 2 ^ 32)

/-- The START transfer (43_toplevel.md R170): the command is latched, the word is taken from the port and the
premise of 20_memory.md R64 begins to hold. -/
def State.startTransfer (s : State) (mbm : Bool) (len : BitVec 16) : State :=
  { s with mbm := mbm, len := len, nbytes := s.msgLen, phase := .select, cmd := none, stable := true }

/-- A command word offered while BUSY waits at the port (43_toplevel.md R173). -/
def State.offer (s : State) (w : BitVec 17) : State := { s with cmd := some w }

/-- A START offered by the host: it transfers when BUSY = 0 and waits otherwise (43_toplevel.md R170, R173). -/
def State.start (s : State) (mbm : Bool) (len : BitVec 16) : State :=
  if s.cmdReady then s.startTransfer mbm len else s.offer (cmdBits mbm len)

/-- `raise UnsupportedLength(v)` (60_exceptions.md R203). -/
def State.raiseUnsupportedLength (s : State) (v : BitVec 16) : State :=
  { s with errval := v, phase := .error }

/-- The reset event (70_reset_and_hazards.md R230; 10_state.md R46): PHASE becomes IDLE and every other
register of R20 holds a value drawn afresh (93_implementation_defined.md U8). M and what else belongs to the
host are untouched (notes/assumptions/27.md). -/
def State.resetEvent (s : State) : State :=
  { s with
    phase := .idle
    msgLen := Config.free 32 s.draws 0
    mbm := (Config.free 1 s.draws 1).getLsbD 0
    len := Config.free 16 s.draws 2
    nbytes := Config.free 32 s.draws 3
    sel := Config.free 3 s.draws 4
    fold := (Config.free 1 s.draws 5).getLsbD 0
    digest := Config.free 1024 s.draws 6
    idx := Config.free 32 s.draws 7
    olen := Config.free 8 s.draws 8
    errval := Config.free 16 s.draws 9
    obuf := Vector.ofFn fun i => Config.free 8 s.draws (10 + i)
    draws := s.draws + 1 }

/-- SEL's success: `SEL <- k; FOLD <- f; PHASE <- INIT` (40_select.md R111). -/
def State.latchSelection (s : State) (c : Selection) : State :=
  { s with sel := BitVec.ofNat 3 c.k, fold := c.foldNeeded, phase := .init }

/-- INI: `DIGEST <- zext_1024(BASIS[SEL]); IDX <- 0; PHASE <- ABSORB` (41_accumulate.md R124), BASIS being
the table's. DESIGN CHOICE: a basis of more than 1024 bits, which no well-formed table holds, is cut to them
(notes/assumptions/33.md). -/
def State.initDigest (s : State) (p : Config.Ptab) (k : Fin 6) : State :=
  { s with digest := BitVec.ofNat 1024 p[k].basis, idx := 0, phase := .absorb }

/-- The end of an absorb step: the new digest, `IDX <- IDX + 1` (41_accumulate.md R125, R126). -/
def State.absorbed (s : State) (d : Nat) : State :=
  { s with digest := BitVec.ofNat 1024 d, idx := s.idx + 1, draws := s.drawsAfterRead }

/-- An absorb step with the loop body `f k digest byte` (41_accumulate.md R125, R126, R134). The byte is
read at IDX, which must be below NBYTES (20_memory.md R61). -/
def absorb (f : Fin 6 → Nat → Nat → Nat) (s : State) : Host.Outcome State Fault Refusal :=
  match selIndex s.sel with
  | none => .refused .selReserved
  | some k =>
    if s.idx.toNat < s.nbytes.toNat then
      .next (s.absorbed (f k s.digest.toNat (s.memRead s.idx.toNat).toNat))
    else .fault .messageOutOfRange

/-- ABSX: to FOLD when FOLD = 1, else to EMIT (41_accumulate.md R127). -/
def State.leaveLoop (s : State) : State := { s with phase := if s.fold then .fold else .emit }

/-- FLD: `DIGEST <- zext_1024(fold(DIGEST, LEN)); PHASE <- EMIT` (42_fold.md R143). -/
def State.foldDigest (s : State) : State :=
  { s with digest := BitVec.ofNat 1024 (xorFold s.digest.toNat s.lenVal), phase := .emit }

/-- EMT: OLEN and OBUF from `ser(DIGEST)` in the mode `m`, PHASE to DONE (43_toplevel.md R185). The bytes at OLEN and above
are unspecified: free values (93_implementation_defined.md U6; notes/assumptions/14.md). -/
def State.emit (s : State) (m : Config.SerMode) : State :=
  { s with
    olen := BitVec.ofNat 8 (serLen m s.digest.toNat)
    obuf := obufWriteAll (Vector.ofFn fun i => Config.free 8 s.draws i) 0 (ser m s.digest.toNat)
    phase := .done
    draws := s.draws + 1 }

/-- A value where the spec defines it, and otherwise a free value of the same width (10_state.md R36). -/
def State.validOr {w : Nat} (s : State) (valid : Bool) (v : BitVec w) (slot : Nat) : BitVec w :=
  if valid then v else Config.free w s.draws slot

/-- What a host read of register number `n` returns (10_state.md R35), zero-extended to 32 bits
(notes/assumptions/24.md); outside the windows of R36, and where R35 lists nothing to read, a free value. -/
def State.regRead (s : State) (n : Nat) : BitVec 32 :=
  if n = 1 then s.msgLen
  else if n = 2 then s.statusWord.setWidth 32
  else if n = 3 then (s.validOr s.errOut s.errval 0).setWidth 32
  else if n = 4 then (s.validOr s.doneOut s.olen 0).setWidth 32
  else if n = 5 then (s.validOr s.commandValid s.len 0).setWidth 32
  else if n = 6 then
    (s.validOr s.selectionValid s.sel 0 ++ s.validOr s.selectionValid (BitVec.ofBool s.fold) 1 ++
      s.validOr s.commandValid (BitVec.ofBool s.mbm) 2).setWidth 32
  else if n = 7 then s.validOr s.indexValid s.idx 0
  else if 32 ≤ n ∧ n ≤ 63 then s.validOr s.doneOut (digestLimb s.digest (n - 32)) 0
  else if 64 ≤ n ∧ n ≤ 192 then
    (s.validOr (s.doneOut && decide (n - 64 < s.olen.toNat)) (obufByte s.obuf (n - 64)) 0).setWidth 32
  else Config.free 32 s.draws 0

/-- A host read: the value returned; no register of the engine changes (43_toplevel.md R193). A draw is
used up, so that the next read draws afresh (92_eei_decisions.md D13). -/
def State.hostRead (s : State) (n : Nat) : State :=
  { s with rdata := s.regRead n, draws := s.draws + 1 }

/-- A host write to MSG_LEN, at any time (10_state.md R32). -/
def State.writeMsgLen (s : State) (v : BitVec 32) : State := { s with msgLen := v }

/-- A host write to M, at any time. While BUSY, at an index below NBYTES, it breaks the premise of
20_memory.md R64. -/
def State.poke (s : State) (i : BitVec 32) (b : Byte) : State :=
  { s with
    mem := Memory.write s.mem i.toNat b
    stable := s.stable && !(s.busy && decide (i.toNat < s.nbytes.toNat)) }

/-- The host takes back a waiting command word (43_toplevel.md R173). -/
def State.withdraw (s : State) : State := { s with cmd := none }

/-- The host's moves still to come. -/
def State.withScript (s : State) (ms : List HostMove) : State := { s with script := ms }

end Sys2Proof.Machine
end

