-- ==== Sys2Proof/Machine/Accumulate.lean ====
section
/-! DEFINITION. The Accumulator's micro-operations INI, ABS1, ABS1A, ABSX (41_accumulate.md). They read the
registers; the control word has chosen among them (30_encoding.md R93; notes/assumptions/19.md). Those that read the
constant table take it as an argument (10_state.md R38), in the definitions named With. -/

namespace Sys2Proof.Machine

open Sys2Proof

/-- INI (R124), BASIS taken from the table `p`. -/
def execIniWith (p : Config.Ptab) (s : State) : Host.Outcome State Fault Refusal :=
  match selIndex s.sel with
  | none => .refused .selReserved
  | some k => .next (s.initDigest p k)

/-- INI (R124). -/
def execIni (s : State) : Host.Outcome State Fault Refusal := execIniWith ptab s

/-- ABS1 (R125): multiply, then XOR; PRIME taken from the table `p`. DESIGN CHOICE: the formula is applied to any
DIGEST, one at or above 2^SIZE[SEL] too, for which R121 gives no product (notes/assumptions/31.md). -/
def execAbs1With (p : Config.Ptab) (s : State) : Host.Outcome State Fault Refusal :=
  absorb (fun k d b => xorb (mulp p k d) b) s

/-- ABS1 (R125). -/
def execAbs1 (s : State) : Host.Outcome State Fault Refusal := execAbs1With ptab s

/-- ABS1A (R126): XOR, then multiply; PRIME taken from the table `p`. DESIGN CHOICE as for ABS1
(notes/assumptions/31.md). -/
def execAbs1aWith (p : Config.Ptab) (s : State) : Host.Outcome State Fault Refusal :=
  absorb (fun k d b => mulp p k (xorb d b)) s

/-- ABS1A (R126). -/
def execAbs1a (s : State) : Host.Outcome State Fault Refusal := execAbs1aWith ptab s

/-- ABSX (R127). -/
def execAbsx (s : State) : Host.Outcome State Fault Refusal := .next s.leaveLoop

end Sys2Proof.Machine
end

