-- ==== Sys2Proof/Machine/Command.lean ====
section
/-! DEFINITION. The two commands, FNV1 and FNV1A (43_toplevel.md R170 to R174). -/

namespace Sys2Proof.Machine

open Sys2Proof

/-- FNV1 (R171): the START transfer with cmd[16] = 0; while BUSY the word waits (R173). -/
def execFnv1 (len : BitVec 16) (s : State) : Host.Outcome State Fault Refusal :=
  .next (s.start false len)

/-- FNV1A (R172): the START transfer with cmd[16] = 1; while BUSY the word waits (R173). -/
def execFnv1a (len : BitVec 16) (s : State) : Host.Outcome State Fault Refusal :=
  .next (s.start true len)

end Sys2Proof.Machine
end

