-- ==== Sys2Proof/Machine/Emit.lean ====
section
/-! DEFINITION. Result serialisation: the micro-operation EMT (43_toplevel.md R184, R185). -/

namespace Sys2Proof.Machine

open Sys2Proof

/-- EMT (R185), in the serialisation `m`, which R184 and R189 leave a parameter. -/
def execEmtWith (m : Config.SerMode) (s : State) : Host.Outcome State Fault Refusal := .next (s.emit m)

/-- EMT (R185). -/
def execEmt (s : State) : Host.Outcome State Fault Refusal := execEmtWith serMode s

end Sys2Proof.Machine
end

