-- ==== Sys2Proof/Machine/Fold.lean ====
section
/-! DEFINITION. The Folder's micro-operation FLD (42_fold.md). -/

namespace Sys2Proof.Machine

open Sys2Proof

/-- FLD (R143). `fold` is defined for 0 < LEN < SIZE[SEL] only (R140, R144): elsewhere the model refuses, as
93_implementation_defined.md U1 says. DESIGN CHOICE: DIGEST is not checked. R140 defines `fold` for a digest below
2^SIZE[SEL]; for one at or above it, which no run reaches (R37), the formula is applied all the same
(notes/assumptions/31.md). -/
def execFld (s : State) : Host.Outcome State Fault Refusal :=
  match selIndex s.sel with
  | none => .refused .selReserved
  | some k => if foldDomain k s.lenVal then .next s.foldDigest else .refused .foldOutsideDomain

end Sys2Proof.Machine
end

