-- ==== Sys2Proof/Machine/Rest.lean ====
section
/-! DEFINITION. The resting phases IDLE, DONE and ERROR: 'no register changes until the host makes a START
transfer or reset occurs' (43_toplevel.md R193). -/

namespace Sys2Proof.Machine

open Sys2Proof

/-- IDLE, control words `000xxx` (R193). -/
def execIdle (s : State) : Host.Outcome State Fault Refusal := .next s

/-- DONE, control words `110xxx` (R193). -/
def execDone (s : State) : Host.Outcome State Fault Refusal := .next s

/-- ERROR, control words `111xxx` (R193; 60_exceptions.md R205). -/
def execError (s : State) : Host.Outcome State Fault Refusal := .next s

end Sys2Proof.Machine
end

