-- ==== Sys2Proof/Machine/Select.lean ====
section
/-! DEFINITION. The Parameter Selector's micro-operation SEL (40_select.md). -/

namespace Sys2Proof.Machine

open Sys2Proof

/-- SEL: the success case (R111), or the exception UnsupportedLength, which is taken (R112). -/
def execSel (s : State) : Host.Outcome State Fault Refusal :=
  match select s.lenVal with
  | some c => .next (s.latchSelection c)
  | none => .next (s.raiseUnsupportedLength s.len)

end Sys2Proof.Machine
end

