-- ==== Sys2Proof/Machine/Dispatch.lean ====
section
/-! DEFINITION. One arm per row of spec/opcode_table.json. -/

namespace Sys2Proof.Machine

open Sys2Proof

def exec (i : Instr) (s : State) : Host.Outcome State Fault Refusal :=
  match i with
  | .fnv1 len => Sys2Proof.Machine.execFnv1 len s
  | .fnv1a len => Sys2Proof.Machine.execFnv1a len s
  | .idle _ _ _ => Sys2Proof.Machine.execIdle s
  | .sel _ _ _ => Sys2Proof.Machine.execSel s
  | .ini _ _ _ => Sys2Proof.Machine.execIni s
  | .abs1 _ => Sys2Proof.Machine.execAbs1 s
  | .abs1a _ => Sys2Proof.Machine.execAbs1a s
  | .absx _ _ => Sys2Proof.Machine.execAbsx s
  | .fld _ _ _ => Sys2Proof.Machine.execFld s
  | .emt _ _ _ => Sys2Proof.Machine.execEmt s
  | .done _ _ _ => Sys2Proof.Machine.execDone s
  | .error _ _ _ => Sys2Proof.Machine.execError s

end Sys2Proof.Machine
end

