-- ==== Sys2Proof/Machine/Turn.lean ====
section
/-! DEFINITION. One turn of the machine: which word is next, the engine's turn, the host's turn
(00_scope.md R15; 70_reset_and_hazards.md R243), and how a word is placed to be next. -/

namespace Sys2Proof.Machine

open Sys2Proof

/-- The word the next engine turn decodes: a command word that is offered while BUSY = 0
(43_toplevel.md R170), else the control word (30_encoding.md R93). -/
def State.nextWord (s : State) : CodeWord :=
  match s.cmd with
  | some w => if s.cmdReady then .cmd w else .cw s.controlWord
  | none => .cw s.controlWord

/-- What an instruction does: `exec`, or `execWith p` where the parameters are another choice
(Machine/Parametric.lean). -/
abbrev Meaning := Instr → State → Host.Outcome State Fault Refusal

/-- The engine's turn: the instruction of the next word. -/
def engineTurnBy (ex : Meaning) (s : State) : Host.Outcome State Fault Refusal := ex (decode s.nextWord) s

/-- A host write at a register number (10_state.md R35): 0 is CMD, of which bits 16:0 are used
(30_encoding.md R90); 1 is MSG_LEN; any other number ignores the write. -/
def hostWriteBy (ex : Meaning) (n : Nat) (v : BitVec 32) (s : State) : Host.Outcome State Fault Refusal :=
  if n = 0 then ex (decode (.cmd (v.setWidth 17))) s
  else if n = 1 then .next (s.writeMsgLen v)
  else .next s

/-- One move of the host, in a state whose `script` holds the moves after it. -/
def hostTurnBy (ex : Meaning) (m : HostMove) (s : State) : Host.Outcome State Fault Refusal :=
  match m with
  | .pass => engineTurnBy ex s
  | .wait =>
    if s.busy then engineTurnBy ex ((s.hostRead 2).withScript (.wait :: s.script)) else .next (s.hostRead 2)
  | .poke i b => .next (s.poke i b)
  | .write n v => hostWriteBy ex n v s
  | .read n => .next (s.hostRead n)
  | .withdraw => .next s.withdraw
  | .reset => .next s.resetEvent

/-- One turn: the host's next move, or the engine's turn where no host move is pending
(notes/assumptions/7.md). -/
def turnBy (ex : Meaning) (s : State) : Host.Outcome State Fault Refusal :=
  match s.script with
  | [] => engineTurnBy ex s
  | m :: ms => hostTurnBy ex m (s.withScript ms)

/-- The engine's turn, at the parameters this model takes. -/
def engineTurn (s : State) : Host.Outcome State Fault Refusal := engineTurnBy exec s

/-- One move of the host, at the parameters this model takes. -/
def hostTurn (m : HostMove) (s : State) : Host.Outcome State Fault Refusal := hostTurnBy exec m s

/-- One turn, at the parameters this model takes. -/
def turn (s : State) : Host.Outcome State Fault Refusal := turnBy exec s

/-- `s` with command word `w` offered to a resting engine: the next turn transfers it. -/
def State.placeCommand (s : State) (w : BitVec 17) : State :=
  { s with script := [], cmd := some w, phase := if s.busy then .idle else s.phase }

/-- `s` with the registers a control word is made of set so that the word is `w` (R93): PHASE, MBM, FOLD from
their bits, IDX = NBYTES for LAST = 1, and IDX = 0, NBYTES = 1 for LAST = 0. In phase FOLD, which is only
entered with LEN < SIZE[SEL] (42_fold.md R143), LEN and SEL are set to 16 and 0. -/
def State.placeControl (s : State) (w : BitVec 6) : State :=
  let phase := Phase.ofCode (w.extractLsb' 3 3)
  let last := w.getLsbD 0
  { s with
    script := []
    cmd := none
    phase := phase
    mbm := w.getLsbD 2
    fold := w.getLsbD 1
    idx := if last then s.nbytes else 0
    nbytes := if last then s.nbytes else 1
    len := if phase = .fold then 16 else s.len
    sel := if phase = .fold then 0 else s.sel }

/-- `s` with the word the bytes hold placed next; `s` itself where they hold none. -/
def State.placeBytes (s : State) (bs : List Byte) : State :=
  match wordOfBytes bs with
  | .ok (.cmd w) => s.placeCommand w
  | .ok (.cw w) => s.placeControl w
  | .error _ => s

end Sys2Proof.Machine
end

