-- ==== Sys2Proof/Machine/Step.lean ====
section
/-! DEFINITION. One step of the machine, and the placing of an opcode-table word where the next step takes
it (notes/assumptions/9.md). -/

namespace Sys2Proof.Machine

open Sys2Proof

/-- One atomic step (00_scope.md R11): a move of the host or a step of the engine. -/
def step (s : State) : Host.Outcome State Fault Refusal := turn s

/-- `s` with the opcode-table word `w` of `nbits` bits placed so that the next step runs it. -/
def State.withFetchWord (s : State) (nbits w : Nat) : State := s.placeBytes (tableBytes nbits w)

end Sys2Proof.Machine
end

