-- ==== Sys2Proof/Machine/Asm.lean ====
section
/-! DEFINITION. The assembler form of 30_encoding.md R98: its five statements, the host moves each stands
for, and the reading of a line of text. A line is a list of character codes (notes/assumptions/25.md). -/

namespace Sys2Proof.Machine

open Sys2Proof

/-- A statement (R98). -/
inductive AsmStmt where
  /-- `.msg "text"`: M holds the ASCII bytes of the text, MSG_LEN their count. -/
  | msg (text : List Byte)
  /-- `.bytes hh hh ...`: M holds the listed bytes, MSG_LEN their count. -/
  | bytes (bs : List Byte)
  /-- `FNV1 <len>`. -/
  | fnv1 (len : BitVec 16)
  /-- `FNV1A <len>`. -/
  | fnv1a (len : BitVec 16)
  /-- `WAIT`. -/
  | wait
deriving DecidableEq, Repr

/-- The host writes bytes into M at consecutive indices from `i` on. -/
def pokeFrom (i : Nat) : List Byte → List HostMove
  | [] => []
  | b :: bs => .poke (BitVec.ofNat 32 i) b :: pokeFrom (i + 1) bs

/-- Preparing a message: the bytes, then MSG_LEN (70_reset_and_hazards.md R235). The message has fewer than 2^32
bytes. DESIGN CHOICE: on a longer list, which MSG_LEN cannot count and which `assemble` refuses, the count and the
indices would wrap modulo 2^32, and no statement speaks of one (notes/assumptions/22.md). -/
def prepareMoves (bs : List Byte) : List HostMove :=
  pokeFrom 0 bs ++ [.write 1 (BitVec.ofNat 32 bs.length)]

/-- The host's moves a statement stands for (R98). DESIGN CHOICE: FNV1 and FNV1A are one write of CMD each, so that
met while BUSY the word waits at the port while the program goes on: a WAIT after it ends at the BUSY = 0 of
the operation before, and a second command statement replaces the word (notes/assumptions/29.md). -/
def AsmStmt.moves : AsmStmt → List HostMove
  | .msg text => prepareMoves text
  | .bytes bs => prepareMoves bs
  | .fnv1 len => [.write 0 ((cmdBits false len).setWidth 32)]
  | .fnv1a len => [.write 0 ((cmdBits true len).setWidth 32)]
  | .wait => [.wait]

/-- The message of a statement, if it has one, can be counted by MSG_LEN: a message of 2^32 bytes or more is
refused by the driver (92_eei_decisions.md D19; 93_implementation_defined.md U12). -/
def AsmStmt.presentable : AsmStmt → Bool
  | .msg bs | .bytes bs => decide (bs.length < 2 ^ 32)
  | .fnv1 _ | .fnv1a _ | .wait => true

/-- A program's moves, statement by statement; none where a message cannot be presented. -/
def assemble (prog : List AsmStmt) : Option (List HostMove) :=
  if prog.all AsmStmt.presentable then some (prog.flatMap AsmStmt.moves) else none

/-- Space or tab. -/
def isBlank (c : Nat) : Bool := c == 32 || c == 9

/-- The rest of a line holds nothing but blanks and perhaps a comment, which `;` (59) begins. -/
def restEmpty : List Nat → Bool
  | [] => true
  | c :: cs => c == 59 || (isBlank c && restEmpty cs)

/-- A line's first word, in lower case (R98: 'Mnemonics are case-insensitive'), and what follows. -/
def takeWord : List Nat → List Nat × List Nat
  | [] => ([], [])
  | c :: cs =>
    if isBlank c || c == 59 then ([], c :: cs)
    else
      let r := takeWord cs
      ((if 65 ≤ c ∧ c ≤ 90 then c + 32 else c) :: r.1, r.2)

/-- The value of a hex digit's character code. -/
def hexDigit (c : Nat) : Option Nat :=
  if 48 ≤ c ∧ c ≤ 57 then some (c - 48)
  else if 97 ≤ c ∧ c ≤ 102 then some (c - 87)
  else if 65 ≤ c ∧ c ≤ 70 then some (c - 55)
  else none

/-- Two hex digits, one byte, then the next byte, up to the end of the line or a comment. DESIGN CHOICE: R98 shows the
bytes apart, and blanks between them are read but not required (notes/assumptions/25.md). -/
def readBytes : List Nat → Option (List Byte)
  | [] => some []
  | [c] => if restEmpty [c] then some [] else none
  | c :: d :: cs =>
    if isBlank c then readBytes (d :: cs)
    else if c == 59 then some []
    else
      match hexDigit c, hexDigit d, readBytes cs with
      | some h, some l, some bs => some (BitVec.ofNat 8 (16 * h + l) :: bs)
      | _, _, _ => none

/-- The text between two double quotes (34), ASCII only, and nothing after it. DESIGN CHOICE: no escapes
(notes/assumptions/25.md). -/
def readText : List Nat → Option (List Byte)
  | [] => none
  | c :: cs =>
    if c == 34 then if restEmpty cs then some [] else none
    else if c < 128 then (readText cs).map (BitVec.ofNat 8 c :: ·)
    else none

/-- The digits of a decimal number, and nothing after them but blanks and a comment. DESIGN CHOICE: leading zeros are
read (notes/assumptions/25.md). -/
def readDecimal (acc : Nat) : List Nat → Option Nat
  | [] => some acc
  | c :: cs =>
    if 48 ≤ c ∧ c ≤ 57 then readDecimal (10 * acc + (c - 48)) cs
    else if restEmpty (c :: cs) then some acc
    else none

/-- `<len>`: a decimal integer 0 to 65535 (R98). -/
def readLen (cs : List Nat) : Option (BitVec 16) :=
  match cs with
  | c :: _ =>
    if 48 ≤ c ∧ c ≤ 57 then
      match readDecimal 0 cs with
      | some n => if n < 65536 then some (BitVec.ofNat 16 n) else none
      | none => none
    else none
  | [] => none

/-- One line of the assembler form: an empty list where the line holds no statement, none where it is no
line of the form. -/
def parseLine (line : List Nat) : Option (List AsmStmt) :=
  let r := takeWord (line.dropWhile isBlank)
  let arg := r.2.dropWhile isBlank
  if r.1 = [] then if restEmpty arg then some [] else none
  else if r.1 = [46, 109, 115, 103] then  -- .msg
    match arg with
    | 34 :: cs => (readText cs).map fun t => [.msg t]
    | _ => none
  else if r.1 = [46, 98, 121, 116, 101, 115] then  -- .bytes
    (readBytes arg).map fun bs => [.bytes bs]
  else if r.1 = [102, 110, 118, 49] then  -- fnv1
    (readLen arg).map fun l => [.fnv1 l]
  else if r.1 = [102, 110, 118, 49, 97] then  -- fnv1a
    (readLen arg).map fun l => [.fnv1a l]
  else if r.1 = [119, 97, 105, 116] then  -- wait
    if restEmpty arg then some [.wait] else none
  else none

/-- A program's text, one statement a line (R98). -/
def parseProgram : List (List Nat) → Option (List AsmStmt)
  | [] => some []
  | l :: ls =>
    match parseLine l, parseProgram ls with
    | some a, some b => some (a ++ b)
    | _, _ => none

end Sys2Proof.Machine
end

