-- ==== Sys2Proof/Machine/Instances.lean ====
section
/-! DEFINITION. Several engines side by side (60_exceptions.md R215): each has its own copy of the whole
state, and they share only PTAB, which is constant. One of them steps at a time; which one is the caller's
choice (notes/assumptions/21.md). -/

namespace Sys2Proof.Machine

open Sys2Proof

/-- The engines of a platform, each with its own state. -/
abbrev System := List State

/-- Engine `i` takes one step; where there is no engine `i`, nothing happens. -/
def System.stepAt (es : System) (i : Nat) : Host.Outcome System Fault Refusal :=
  match es[i]? with
  | none => .next es
  | some s =>
    match step s with
    | .next t => .next (es.set i t)
    | .fault r => .fault r
    | .refused r => .refused r

end Sys2Proof.Machine
end

