-- ==== Sys2Proof/Machine/Parametric.lean ====
section
/-! DEFINITION. The machine at any choice of the parameters D0 leaves open: PTAB is 'a parameter of the step function,
not state' (10_state.md R38; 92_eei_decisions.md D14), and so is SER_MODE (D9). `exec` and `step` are this machine at
`params`. -/

namespace Sys2Proof.Machine

open Sys2Proof

/-- What an instruction does at the parameters `p`: INI, ABS1 and ABS1A read the table, EMT the serialisation, and no
other instruction reads either. DESIGN CHOICE: a table that is not well-formed (`Config.Params.wellFormed`), which
92_eei_decisions.md does not admit, runs all the same: an entry's own size is never read, SIZE[k] being 32 << k,
and a basis is cut to 1024 bits (notes/assumptions/33.md). -/
def execWith (p : Config.Params) (i : Instr) (s : State) : Host.Outcome State Fault Refusal :=
  match i with
  | .fnv1 len => execFnv1 len s
  | .fnv1a len => execFnv1a len s
  | .idle _ _ _ => execIdle s
  | .sel _ _ _ => execSel s
  | .ini _ _ _ => execIniWith p.ptab s
  | .abs1 _ => execAbs1With p.ptab s
  | .abs1a _ => execAbs1aWith p.ptab s
  | .absx _ _ => execAbsx s
  | .fld _ _ _ => execFld s
  | .emt _ _ _ => execEmtWith p.serMode s
  | .done _ _ _ => execDone s
  | .error _ _ _ => execError s

/-- One atomic step at the parameters `p`: the step function that R38 gives the table to. -/
def stepWith (p : Config.Params) (s : State) : Host.Outcome State Fault Refusal := turnBy (execWith p) s

/-- The machine at the parameters `p`, as the host's interface sees one. -/
def coreWith (p : Config.Params) : Host.Core where
  State := State
  Fault := Fault
  Refusal := Refusal
  step := stepWith p
  reset := State.reset

end Sys2Proof.Machine
end

