-- ==== Sys2Proof/Safety.lean ====
section
/-! DEFINITION. What counts as a safe run, in the terms the statements use: the invariant of the machine
(10_state.md R28, R31, R37; 40_select.md R111; 43_toplevel.md R185), the loop invariant of
41_accumulate.md R130, the control transfers of 43_toplevel.md R191, and small words about outcomes. -/

namespace Sys2Proof.Machine

open Sys2Proof

/-- The step completes: it answers a next state. -/
def Completes (o : Host.Outcome State Fault Refusal) : Prop := ∃ t, o = .next t

/-- An outcome with a function applied to its next state. -/
def mapNext (f : State → State) : Host.Outcome State Fault Refusal → Host.Outcome State Fault Refusal
  | .next s => .next (f s)
  | .fault r => .fault r
  | .refused r => .refused r

/-- `n` engine turns. -/
def engineTurns : Nat → State → Host.Outcome State Fault Refusal
  | 0, s => .next s
  | n + 1, s =>
    match engineTurn s with
    | .next t => engineTurns n t
    | .fault r => .fault r
    | .refused r => .refused r

/-- SEL and FOLD hold what `select` gives for LEN (40_select.md R111). -/
def State.Selected (s : State) (c : Selection) : Prop :=
  select s.lenVal = some c ∧ s.sel = BitVec.ofNat 3 c.k ∧ s.fold = c.foldNeeded

/-- OLEN and OBUF hold the result bytes of DIGEST (43_toplevel.md R185). -/
def State.Emitted (s : State) : Prop :=
  s.olen.toNat = serLen serMode s.digest.toNat ∧
    ∀ i, i < serLen serMode s.digest.toNat →
      obufByte s.obuf i = (ser serMode s.digest.toNat).getD i 0

/-- The invariant of the machine: M is in canonical form, and each phase finds in the registers what the
phases before it leave there. -/
structure State.Inv (s : State) : Prop where
  /-- The canonical form of M. -/
  memWf : Memory.wf s.mem = true
  /-- After SEL: the selection is LEN's (R111). -/
  selected : s.selectionValid = true → ∃ c, s.Selected c
  /-- IDX never exceeds NBYTES (R28) and DIGEST is below 2^SIZE[SEL] (R37). -/
  absorbing : s.phase = .absorb → s.idx.toNat ≤ s.nbytes.toNat ∧
    ∃ c, s.Selected c ∧ s.digest.toNat < 2 ^ c.size
  /-- FOLD is entered only with FOLD = 1 (42_fold.md R143), after the last byte. -/
  folding : s.phase = .fold → s.idx = s.nbytes ∧ s.fold = true ∧
    ∃ c, s.Selected c ∧ s.digest.toNat < 2 ^ c.size
  /-- In EMIT and DONE DIGEST is the result value, below 2^LEN (R37, 43_toplevel.md R187). -/
  result : s.phase = .emit ∨ s.phase = .done → s.idx = s.nbytes ∧ s.digest.toNat < 2 ^ s.lenVal
  /-- In DONE the output buffer holds the result bytes. -/
  emitted : s.phase = .done → s.Emitted
  /-- In ERROR the refused length is recorded (60_exceptions.md R202). -/
  refusedLen : s.phase = .error → s.errval = s.len ∧ select s.lenVal = none

/-- The loop invariant of 41_accumulate.md R130, and what it makes of DIGEST up to EMIT, while the host
keeps the message stable (20_memory.md R64). -/
structure State.LoopInv (s : State) : Prop where
  absorbing : s.stable = true → s.phase = .absorb → ∀ k, selIndex s.sel = some k →
    s.digest.toNat = accumulate ptab k s.mbm (Memory.message s.mem s.idx.toNat)
  folding : s.stable = true → s.phase = .fold → ∀ k, selIndex s.sel = some k →
    s.digest.toNat = accumulate ptab k s.mbm (Memory.message s.mem s.nbytes.toNat)
  emitting : s.stable = true → s.phase = .emit →
    resultValue ptab s.mbm (Memory.message s.mem s.nbytes.toNat) s.lenVal = some s.digest.toNat

/-- The control transfers an engine turn can make (43_toplevel.md R191), with the condition of each. -/
def State.Transfer (s : State) (next : Phase) : Prop :=
  match s.phase with
  | .idle | .done | .error => (s.cmd ≠ none ∧ next = .select) ∨ (s.cmd = none ∧ next = s.phase)
  | .select =>
    (16 ≤ s.lenVal ∧ s.lenVal ≤ 1024 ∧ next = .init) ∨
      ((s.lenVal < 16 ∨ 1024 < s.lenVal) ∧ next = .error)
  | .init => next = .absorb
  | .absorb =>
    (s.idx ≠ s.nbytes ∧ next = .absorb) ∨ (s.idx = s.nbytes ∧ s.fold = true ∧ next = .fold) ∨
      (s.idx = s.nbytes ∧ s.fold = false ∧ next = .emit)
  | .fold => next = .emit
  | .emit => next = .done

end Sys2Proof.Machine
end

