-- ==== Sys2Proof/WellFormed.lean ====
section
/-! DEFINITION. Well-formedness. Every term of `Instr` is a legal instruction: all 2^17 command words and
all 64 control words are legal (30_encoding.md R95, R96), and the fields' widths are in their types.
What can be ill-formed is the constant table, whose constraints 92_eei_decisions.md gives ('Parameters
left OPEN'): SIZE[k] = 32 << k; PRIME[k], BASIS[k] < 2^SIZE[k]. -/

namespace Sys2Proof

/-- R96: 'All 2^17 command words are legal commands'; R95: each of the 64 control words is decoded. -/
def Instr.wellFormed (_ : Instr) : Bool := true

namespace Config

/-- One entry of PTAB at index `k` meets the constraints of 92_eei_decisions.md. -/
def PtabEntry.wellFormed (k : Nat) (e : PtabEntry) : Bool :=
  decide (e.size = 32 <<< k) && decide (e.basis < 2 ^ e.size) && decide (e.prime < 2 ^ e.size)

/-- The table meets them at every index. -/
def Ptab.wellFormed (p : Ptab) : Bool :=
  (List.finRange 6).all fun k => (p[k]).wellFormed k

/-- Parameters are well-formed when their table is; both modes are legal (92_eei_decisions.md D9). -/
def Params.wellFormed (p : Params) : Bool := p.ptab.wellFormed

end Config
end Sys2Proof
end

