-- ==== Sys2Proof/Certificates/Slice0/Obligations.lean ====
section
/-! DEFINITION. The statements, from the numbered rules of spec/. A statement about a next state writes it out
as the old state with the fields that change, so that what an instruction leaves unchanged is stated with what it
writes: every register not named keeps its value, and so does every byte of M. -/

open Sys2Proof Sys2Proof.Machine

/-! ### Encodings (30_encoding.md) -/

/-- R90, R93: no bit of an encoding is dropped: every instruction, with every value of its operands, is
what its word decodes to. The model's choice, no rule of the spec: that the bits R93 marks `x` are operands (entry 18,
DEDUCED), and the second clause, the words laid out as bytes (entry 10, DESIGN CHOICE). -/
def Obligations.DecodeOfEncode : Prop :=
  ∀ i : Instr, decode (encode i) = i ∧ decodeBytes (encodeBytes i) = .ok i

/-- R95, R96: every word of either format is decoded, and is the word of the instruction it decodes to. It holds
because the model keeps the bits R93 marks `x` as operands (entry 18, DEDUCED): by R93 alone several control
words mean one micro-operation, and the model tells their instructions apart by those bits. -/
def Obligations.EncodeOfDecode : Prop :=
  ∀ c : CodeWord, encode (decode c) = c

/-- R95 (and R92 for the commands): each word is covered by exactly one row of the operation map, the row of the
instruction it decodes to. -/
def Obligations.EveryWordHasExactlyOneRow : Prop :=
  ∀ c : CodeWord, (opTable.filter fun r => r.covers c).map OpRow.mnemonic = [(decode c).mnemonic]

/-- R99's worked encodings, and one control word of each micro-operation written out from R93's table. -/
def Obligations.WorkedEncodingsDecode : Prop :=
  decodeCmd 0x00020#17 = .fnv1 32 ∧ decodeCmd 0x00040#17 = .fnv1 64 ∧ decodeCmd 0x00013#17 = .fnv1 19 ∧
  decodeCmd 0x10020#17 = .fnv1a 32 ∧ decodeCmd 0x10013#17 = .fnv1a 19 ∧
  decodeCmd 0x10400#17 = .fnv1a 1024 ∧ decodeCmd 0x003FB#17 = .fnv1 1019 ∧
  decodeCmd 0x0000F#17 = .fnv1 15 ∧ decodeCmd 0x10401#17 = .fnv1a 1025 ∧
  decodeCw 0b000010#6 = .idle false true false ∧ decodeCw 0b001101#6 = .sel true false true ∧
  decodeCw 0b010011#6 = .ini false true true ∧ decodeCw 0b011010#6 = .abs1 true ∧
  decodeCw 0b011100#6 = .abs1a false ∧ decodeCw 0b011111#6 = .absx true true ∧
  decodeCw 0b100110#6 = .fld true true false ∧ decodeCw 0b101001#6 = .emt false false true ∧
  decodeCw 0b110100#6 = .done true false false ∧ decodeCw 0b111000#6 = .error false false false

/-! ### The step (30_encoding.md R93; 43_toplevel.md R170) -/

/-- A step with no host move, or with a host move that makes no access, is the instruction of the next word:
the control word while BUSY or while no command is offered, else the command word. -/
def Obligations.StepRunsDecodedWord : Prop :=
  ∀ s : State,
    (s.script = [] → step s = exec (decode s.nextWord) s) ∧
    (∀ ms, s.script = .pass :: ms →
      step s = exec (decode (s.withScript ms).nextWord) (s.withScript ms)) ∧
    (s.busy = true → s.nextWord = .cw s.controlWord) ∧
    (s.cmd = none → s.nextWord = .cw s.controlWord) ∧
    (∀ w, s.busy = false → s.cmd = some w → s.nextWord = .cmd w)

/-- R93: the control word is made of PHASE, MBM, FOLD and LAST, and its decoding is the micro-operation of the
phase, with LAST read before MBM in ABSORB (R94). -/
def Obligations.ControlWordSelectsMicroOperation : Prop :=
  ∀ s : State, decodeCw s.controlWord =
    match s.phase with
    | .idle => .idle s.mbm s.fold (decide (s.idx = s.nbytes))
    | .select => .sel s.mbm s.fold (decide (s.idx = s.nbytes))
    | .init => .ini s.mbm s.fold (decide (s.idx = s.nbytes))
    | .absorb =>
      if s.idx = s.nbytes then .absx s.mbm s.fold
      else if s.mbm = true then .abs1a s.fold else .abs1 s.fold
    | .fold => .fld s.mbm s.fold (decide (s.idx = s.nbytes))
    | .emit => .emt s.mbm s.fold (decide (s.idx = s.nbytes))
    | .done => .done s.mbm s.fold (decide (s.idx = s.nbytes))
    | .error => .error s.mbm s.fold (decide (s.idx = s.nbytes))

/-- A word placed by `withFetchWord` is the word the next step decodes and runs. -/
def Obligations.PlacedWordIsRunNext : Prop :=
  (∀ (s : State) (w : BitVec 6),
    step (s.withFetchWord 8 w.toNat) = exec (decodeCw w) (s.withFetchWord 8 w.toNat)) ∧
  ∀ (s : State) (w : BitVec 17),
    step (s.withFetchWord 24 w.toNat) = exec (decodeCmd w) (s.withFetchWord 24 w.toNat)

/-! ### Commands (43_toplevel.md) -/

/-- R170: the START transfer takes place only when BUSY = 0: MBM from bit 16, LEN from bits 15:0, NBYTES from
MSG_LEN, PHASE to SELECT; nothing else of the engine changes. The model's choice, no rule of the spec: that the port is
empty afterwards (`cmd`, entry 8, DEDUCED) and that the flag of R64's premise is set (`stable`, entry 6, DESIGN
CHOICE). -/
def Obligations.StartTransferOnlyWhenReady : Prop :=
  ∀ (s : State) (w : BitVec 17),
    (s.busy = false ↔ s.phase = .idle ∨ s.phase = .done ∨ s.phase = .error) ∧
    (s.busy = false → exec (decodeCmd w) s = .next { s with
      mbm := w.getLsbD 16, len := w.extractLsb' 0 16, nbytes := s.msgLen, phase := .select,
      cmd := none, stable := true }) ∧
    (s.busy = true → ∀ t, exec (decodeCmd w) s = .next t →
      t.mbm = s.mbm ∧ t.len = s.len ∧ t.nbytes = s.nbytes ∧ t.phase = s.phase)

/-- R171, R172: the two commands complete in every state; FNV1 latches MBM = 0 and FNV1A MBM = 1. The
model's choice: the port and the flag `stable` afterwards (entries 8 and 6). -/
def Obligations.CommandsLatchVariantAndLength : Prop :=
  ∀ (s : State) (len : BitVec 16), s.busy = false →
    (∃ t, exec (.fnv1 len) s = .next t ∧ t = { s with
      mbm := false, len := len, nbytes := s.msgLen, phase := .select, cmd := none, stable := true }) ∧
    (∃ t, exec (.fnv1a len) s = .next t ∧ t = { s with
      mbm := true, len := len, nbytes := s.msgLen, phase := .select, cmd := none, stable := true })

/-- R173: a command offered while BUSY waits, every bit of it, or is withdrawn by the host; the engine never drops it
and never queues a second one, and it never disturbs the running operation: the engine's turn is the same with any
word waiting. The model's choice, no rule of the spec: that the port is one word, which a later offer replaces and a
move of the host withdraws (entries 7, 8). -/
def Obligations.CommandWaitsWhileBusy : Prop :=
  ∀ s : State, s.busy = true →
    s.cmdReady = false ∧
    (∀ w : BitVec 17, exec (decodeCmd w) s = .next { s with cmd := some w }) ∧
    (∀ ms, s.script = .withdraw :: ms → step s = .next { s with script := ms, cmd := none }) ∧
    (∀ t, engineTurn s = .next t → t.cmd = s.cmd) ∧
    ∀ c : Option (BitVec 17),
      engineTurn { s with cmd := c } = mapNext (fun t => { t with cmd := c }) (engineTurn s)

/-- R193: in the resting phases the engine has no step: nothing changes. -/
def Obligations.RestingPhasesChangeNothing : Prop :=
  (∀ (s : State) (m f l : Bool), exec (.idle m f l) s = .next s ∧ exec (.done m f l) s = .next s ∧
    exec (.error m f l) s = .next s) ∧
  ∀ s : State, s.busy = false → s.cmd = none → s.script = [] → step s = .next s

/-! ### Selection (40_select.md; 60_exceptions.md) -/

/-- R111: SEL with a supported length: the least canonical size that covers it, FOLD = 1 just below the size,
PHASE to INIT. -/
def Obligations.SelSelectsLeastCoveringSize : Prop :=
  ∀ (s : State) (m f l : Bool), 16 ≤ s.len.toNat → s.len.toNat ≤ 1024 →
    ∃ k : Fin 6, s.len.toNat ≤ 32 <<< k.val ∧ (∀ j : Fin 6, j < k → 32 <<< j.val < s.len.toNat) ∧
      exec (.sel m f l) s = .next { s with
        sel := BitVec.ofNat 3 k, fold := decide (s.len.toNat < 32 <<< k.val), phase := .init }

/-- R112, R203: SEL with an unsupported length takes UnsupportedLength: ERRVAL := LEN, PHASE := ERROR, nothing
else. -/
def Obligations.SelRaisesUnsupportedLength : Prop :=
  ∀ (s : State) (m f l : Bool), s.len.toNat < 16 ∨ 1024 < s.len.toNat →
    exec (.sel m f l) s = .next { s with errval := s.len, phase := .error }

/-- R201: the error is raised exactly by SEL and exactly when LEN < 16 or LEN > 1024, whatever the variant and
the message are. -/
def Obligations.ErrorOnlyFromUnsupportedLength : Prop :=
  (∀ s t : State, engineTurn s = .next t → t.phase = .error →
    s.phase = .error ∨ (s.phase = .select ∧ (s.len.toNat < 16 ∨ 1024 < s.len.toNat))) ∧
  ∀ s : State, s.phase = .select → ∃ t, engineTurn s = .next t ∧
    (t.phase = .error ↔ s.len.toNat < 16 ∨ 1024 < s.len.toNat)

/-- R115: the comparator form of the selector. -/
def Obligations.SelectorComparatorForm : Prop :=
  ∀ L : Nat, 16 ≤ L → L ≤ 1024 → ∃ c, select L = some c ∧
    c.k.val = (if L > 32 then 1 else 0) + (if L > 64 then 1 else 0) + (if L > 128 then 1 else 0) +
      (if L > 256 then 1 else 0) + (if L > 512 then 1 else 0) ∧
    (c.foldNeeded = false ↔
      (L = 32 ∨ L = 64 ∨ L = 128 ∨ L = 256 ∨ L = 512 ∨ L = 1024)) ∧
    c.k.val = selectIndexByComparators L

/-- R114: the selected size is at most twice the length, and exactly twice for L = 16 only. -/
def Obligations.SelectedSizeAtMostTwiceTheLength : Prop :=
  ∀ (L : Nat) (c : Selection), select L = some c →
    c.size ≤ 2 * L ∧ L ≤ c.size ∧ (c.size = 2 * L ↔ L = 16)

/-! ### Accumulation (41_accumulate.md) -/

/-- R124: INI starts DIGEST at BASIS[SEL] and IDX at 0. The table is named; its digits are those of entry 11 (PRESUMED). -/
def Obligations.IniStartsAtBasis : Prop :=
  ∀ (s : State) (m f l : Bool) (k : Fin 6), s.sel.toNat = k.val →
    ∃ t, exec (.ini m f l) s = .next t ∧ t.digest.toNat = ptab[k].basis ∧
      t = { s with digest := t.digest, idx := 0, phase := .absorb }

/-- R125: ABS1 multiplies, then XORs the message byte at IDX; the next IDX is one more (no wrap, R28). That the
formula holds for a DIGEST at or above 2^SIZE[SEL] too, for which R121 gives no product, is the model's choice
(entry 31, DESIGN CHOICE). -/
def Obligations.Abs1MultipliesThenXors : Prop :=
  ∀ (s : State) (f : Bool) (k : Fin 6), s.sel.toNat = k.val → s.idx.toNat < s.nbytes.toNat →
    s.stable = true →
    ∃ t, exec (.abs1 f) s = .next t ∧
      t.digest.toNat = ((s.digest.toNat * ptab[k].prime) % 2 ^ (32 <<< k.val)) ^^^
        (Memory.byte s.mem s.idx.toNat).toNat ∧
      t.idx.toNat = s.idx.toNat + 1 ∧ t = { s with digest := t.digest, idx := t.idx }

/-- R126: ABS1A XORs the message byte at IDX, then multiplies. That the formula holds for a DIGEST at or above
2^SIZE[SEL] too is the model's choice (entry 31, DESIGN CHOICE). -/
def Obligations.Abs1aXorsThenMultiplies : Prop :=
  ∀ (s : State) (f : Bool) (k : Fin 6), s.sel.toNat = k.val → s.idx.toNat < s.nbytes.toNat →
    s.stable = true →
    ∃ t, exec (.abs1a f) s = .next t ∧
      t.digest.toNat = ((s.digest.toNat ^^^ (Memory.byte s.mem s.idx.toNat).toNat) * ptab[k].prime) %
        2 ^ (32 <<< k.val) ∧
      t.idx.toNat = s.idx.toNat + 1 ∧ t = { s with digest := t.digest, idx := t.idx }

/-- R64: after the host has written the running message, an absorb step still completes, with some byte in
place of the message's. The byte is a free value: the statement holds for every value of it. A DIGEST at or above
2^SIZE[SEL] is entry 31's choice. -/
def Obligations.AbsorbWithBrokenPremiseDrawsAByte : Prop :=
  ∀ (s : State) (f : Bool) (k : Fin 6), s.sel.toNat = k.val → s.idx.toNat < s.nbytes.toNat →
    s.stable = false →
    (∃ (b : Byte) (t : State), exec (.abs1 f) s = .next t ∧
      t.digest.toNat = ((s.digest.toNat * ptab[k].prime) % 2 ^ (32 <<< k.val)) ^^^ b.toNat ∧
      t.idx.toNat = s.idx.toNat + 1 ∧ t.draws = s.draws + 1 ∧
      t = { s with digest := t.digest, idx := t.idx, draws := t.draws }) ∧
    (∃ (b : Byte) (t : State), exec (.abs1a f) s = .next t ∧
      t.digest.toNat = ((s.digest.toNat ^^^ b.toNat) * ptab[k].prime) % 2 ^ (32 <<< k.val) ∧
      t.idx.toNat = s.idx.toNat + 1 ∧ t.draws = s.draws + 1 ∧
      t = { s with digest := t.digest, idx := t.idx, draws := t.draws })

/-- R127: ABSX goes to FOLD when FOLD = 1 and to EMIT otherwise, whatever the control word's bits are, and
changes nothing else. -/
def Obligations.AbsxLeavesTheLoop : Prop :=
  ∀ (s : State) (m f : Bool),
    (s.fold = true → exec (.absx m f) s = .next { s with phase := .fold }) ∧
    (s.fold = false → exec (.absx m f) s = .next { s with phase := .emit })

/-- R122, R123: the byte-mix step changes bits 7:0 only, by the low eight bits of its operand, and undoes itself;
a digest below 2^n, n at least 8, stays below it. -/
def Obligations.XorbChangesLowByteOnly : Prop :=
  ∀ d b : Nat,
    (∀ i, (xorb d b).testBit i = (d.testBit i ^^ (decide (i < 8) && b.testBit i))) ∧
    xorb (xorb d b) b = d ∧ ∀ n, 8 ≤ n → d < 2 ^ n → xorb d b < 2 ^ n

/-- R128, R129, R134: one pass of the loop over a message is the loop over its first bytes, then its last. It is said
of every table; a table that is not well-formed is the model's choice (entries 31, 33, DESIGN CHOICE). -/
def Obligations.AccumulateOneMoreByte : Prop :=
  ∀ (p : Config.Ptab) (k : Fin 6) (bs : List Byte) (b : Byte),
    accumulate p k false (bs ++ [b]) =
      ((accumulate p k false bs * p[k].prime) % 2 ^ (32 <<< k.val)) ^^^ b.toNat ∧
    accumulate p k true (bs ++ [b]) =
      ((accumulate p k true bs ^^^ b.toNat) * p[k].prime) % 2 ^ (32 <<< k.val) ∧
    accumulate p k false [] = p[k].basis ∧ accumulate p k true [] = p[k].basis

/-! ### The multi-word datapath (44_bigint_multiplier.md) -/

/-- R152: the value of the truncated schoolbook multiplier, and its use for `mulp`. R152 says it of 32-bit limbs and R161
of widths that divide 32; that the functions take any width, and any number of limbs, is the model's choice (entry 23,
DESIGN CHOICE). -/
def Obligations.MultiplierValue : Prop :=
  (∀ (W : Nat) (a p : List (BitVec W)), a.length = p.length →
    (mwMul a p).length = a.length ∧
      limbsValue (mwMul a p) = (limbsValue a * limbsValue p) % 2 ^ (W * a.length)) ∧
  ∀ (k : Fin 6) (d : Nat), d < 2 ^ (32 <<< k.val) →
    limbsValue (mwMul (limbsOf 32 (2 ^ k.val) d) (limbsOf 32 (2 ^ k.val) ptab[k].prime)) = mulp ptab k d

/-- R154: the intermediate quantity of the multiplier fits in two limbs, and the new carry in one. R154 says it of
32-bit limbs and R161 of widths that divide 32; any other width is the model's choice (entry 23, DESIGN CHOICE). -/
def Obligations.MultiplierTermFitsTwoLimbs : Prop :=
  ∀ (W : Nat) (r a p c : BitVec W), mwTerm r a p c < 2 ^ (2 * W) ∧ mwTerm r a p c >>> W < 2 ^ W

/-- R158: the shift-and-add form of the multiplier, with R41's exponents. The primes' digits are those of entry 11
(PRESUMED); that it holds for d at or above 2^SIZE[k] too, where R121 gives no product, is the model's choice (entry 31,
DESIGN CHOICE). -/
def Obligations.ShiftAndAddMultiplier : Prop :=
  ∀ (k : Fin 6) (d t c : Nat),
    (k, t, c) ∈ ([(0, 24, 0x93), (1, 40, 0xb3), (2, 88, 0x3b), (3, 168, 0x63), (4, 344, 0x57),
      (5, 680, 0x8d)] : List (Fin 6 × Nat × Nat)) →
    mulp ptab k d = ((d <<< t) + (d <<< 8) + d * c) % 2 ^ (32 <<< k.val)

/-- R150, R69: DIGEST is the number its 32 limbs stand for, limb 0 least significant. -/
def Obligations.DigestIsItsLimbs : Prop :=
  ∀ d : BitVec 1024, limbsValue ((List.range 32).map (digestLimb d)) = d.toNat ∧
    (List.range 32).map (digestLimb d) = limbsOf 32 32 d.toNat

/-- R157: the byte-mix step on limbs changes limb 0 only, and has the value of `xorb`. R157 says it of 32-bit
limbs and R161 of widths that divide 32; any other width is the model's choice (entry 23, DESIGN CHOICE), and a width
below 8 is left out (entry 30). -/
def Obligations.XorbOnLimbs : Prop :=
  ∀ (W : Nat) (b : Byte) (x : BitVec W) (xs : List (BitVec W)), 8 ≤ W →
    (xorbLimbs b (x :: xs)).tail = xs ∧
      limbsValue (xorbLimbs b (x :: xs)) = xorb (limbsValue (x :: xs)) b.toNat

/-- R156: the XOR-fold on limbs has the value of `fold`. R156 says it of 32-bit limbs and R161 of widths that divide
32; any other width, and any number of limbs, is the model's choice (entry 23, DESIGN CHOICE). -/
def Obligations.FoldOnLimbs : Prop :=
  ∀ (W : Nat) (x : List (BitVec W)) (t : Nat), 0 < t → t < W * x.length →
    (foldLimbs x t).length = x.length ∧ limbsValue (foldLimbs x t) = xorFold (limbsValue x) t

/-! ### Folding (42_fold.md) -/

/-- R143, R142: FLD in its domain: result bit i is digest bit i XOR digest bit i + LEN for i < LEN, and 0 above;
PHASE to EMIT; nothing else changes. That the formula holds for a DIGEST at or above 2^SIZE[SEL] too, for which R140
defines no fold, is the model's choice (entry 31, DESIGN CHOICE). -/
def Obligations.FldFoldsToLength : Prop :=
  ∀ (s : State) (m f l : Bool) (k : Fin 6), s.sel.toNat = k.val → 0 < s.len.toNat →
    s.len.toNat < 32 <<< k.val →
    ∃ t, exec (.fld m f l) s = .next t ∧
      t.digest.toNat = (s.digest.toNat ^^^ (s.digest.toNat >>> s.len.toNat)) &&& (2 ^ s.len.toNat - 1) ∧
      t.digest.toNat < 2 ^ s.len.toNat ∧
      (∀ i, t.digest.getLsbD i = (decide (i < s.len.toNat) &&
        (s.digest.getLsbD i ^^ s.digest.getLsbD (i + s.len.toNat)))) ∧
      t = { s with digest := t.digest, phase := .emit }

/-- R145: at t = 16 the fold of a 32-bit digest is its high half XOR its low half. -/
def Obligations.FoldOfHalves : Prop :=
  ∀ d : Nat, d < 2 ^ 32 → xorFold d 16 = (d / 2 ^ 16) ^^^ (d % 2 ^ 16)

/-! ### Serialisation (43_toplevel.md) -/

/-- R185, R184, R68: EMT completes in every state: OLEN is the least n >= 1 with DIGEST < 2^(8n-1), OBUF holds the
n bytes of DIGEST, the most significant at OBUF[0]; PHASE to DONE; DIGEST and all else unchanged. The length is that
of SER_MODE = SIGNED_MIN, with one byte for 0 (entry 12, DESIGN CHOICE and PRESUMED); OBUF's bytes at OLEN and above
are free values (entry 14, DEDUCED). -/
def Obligations.EmtEmitsShortestSignedBytes : Prop :=
  ∀ (s : State) (m f l : Bool), ∃ t, exec (.emt m f l) s = .next t ∧
    1 ≤ t.olen.toNat ∧ t.olen.toNat ≤ 129 ∧ s.digest.toNat < 2 ^ (8 * t.olen.toNat - 1) ∧
    (∀ n, 1 ≤ n → n < t.olen.toNat → 2 ^ (8 * n - 1) ≤ s.digest.toNat) ∧
    (∀ j, j < t.olen.toNat →
      (obufByte t.obuf (t.olen.toNat - 1 - j)).toNat = s.digest.toNat / 2 ^ (8 * j) % 256) ∧
    t = { s with olen := t.olen, obuf := t.obuf, phase := .done, draws := t.draws }

/-- R186: the signed-minimal bytes: their big-endian value is v, the sign bit is 0, they are minimal, the extra zero
byte appears exactly at the positive multiples of 8 of the bit length, and different values give different bytes. -/
def Obligations.SerSignedMinProperties : Prop :=
  ∀ v : Nat,
    (ser .signedMin v).foldl (fun acc b => 256 * acc + b.toNat) 0 = v ∧
    ((ser .signedMin v).getD 0 0).toNat < 0x80 ∧
    (2 ≤ (ser .signedMin v).length →
      ¬ ((ser .signedMin v).getD 0 0 = 0 ∧ ((ser .signedMin v).getD 1 0).toNat < 0x80)) ∧
    ((2 ≤ (ser .signedMin v).length ∧ (ser .signedMin v).getD 0 0 = 0) ↔
      (0 < bitlen v ∧ 8 ∣ bitlen v)) ∧
    ∀ u, ser .signedMin u = ser .signedMin v → u = v

/-- R189: the other serialisation differs exactly by the leading zero byte, and has the least number of bytes. -/
def Obligations.SerUnsignedMinOmitsTheExtraByte : Prop :=
  ∀ v : Nat, (ser .unsignedMin v =
    (if 0 < bitlen v ∧ 8 ∣ bitlen v then (ser .signedMin v).tail else ser .signedMin v)) ∧
    (ser .unsignedMin v).length = max 1 ((bitlen v + 7) / 8)

/-- R187: how many bytes a result of L bits takes. -/
def Obligations.ResultLengthBounds : Prop :=
  ∀ L r : Nat, 16 ≤ L → L ≤ 1024 → r < 2 ^ L →
    1 ≤ serLen .signedMin r ∧ serLen .signedMin r ≤ L / 8 + 1 ∧ serLen .signedMin r ≤ 129 ∧
    (L % 8 = 0 → (serLen .signedMin r = L / 8 + 1 ↔ r.testBit (L - 1) = true)) ∧
    (L % 8 ≠ 0 → L / 8 + 1 = (L + 7) / 8)

/-- R188: the leading zero bits of the longest output when L is no multiple of 8. -/
def Obligations.LongestOutputHasLeadingZeroBits : Prop :=
  ∀ L r : Nat, 16 ≤ L → L ≤ 1024 → r < 2 ^ L → L % 8 ≠ 0 → serLen .signedMin r = (L + 7) / 8 →
    ((ser .signedMin r).getD 0 0).toNat < 2 ^ (L % 8)

/-- R69: in DONE the output buffer and the limbs of DIGEST are two views of one number. -/
def Obligations.OutputBytesAreLimbBytes : Prop :=
  ∀ (s : State) (j : Nat), s.Inv → s.phase = .done → j < 128 → j < s.olen.toNat →
    (obufByte s.obuf (s.olen.toNat - 1 - j)).toNat =
      ((digestLimb s.digest (j / 4)).toNat >>> (8 * (j % 4))) &&& 0xFF

/-! ### Where an instruction stops -/

/-- R61, R96, R144: the absorb steps fault at IDX >= NBYTES; SEL codes 6 and 7 and a length outside the fold's
domain are refused. No state that meets the invariant is one of these (`InvariantGivesProgress`). -/
def Obligations.StopsOutsideTheDomain : Prop :=
  (∀ (s : State) (f : Bool), s.sel.toNat < 6 → s.nbytes.toNat ≤ s.idx.toNat →
    exec (.abs1 f) s = .fault .messageOutOfRange ∧ exec (.abs1a f) s = .fault .messageOutOfRange) ∧
  (∀ (s : State) (m f l : Bool), 6 ≤ s.sel.toNat →
    exec (.ini m f l) s = .refused .selReserved ∧ exec (.abs1 f) s = .refused .selReserved ∧
    exec (.abs1a f) s = .refused .selReserved ∧ exec (.fld m f l) s = .refused .selReserved) ∧
  ∀ (s : State) (m f l : Bool) (k : Fin 6), s.sel.toNat = k.val →
    s.len.toNat = 0 ∨ 32 <<< k.val ≤ s.len.toNat →
    exec (.fld m f l) s = .refused .foldOutsideDomain

/-! ### Rules about the whole machine -/

/-- R20's column 'written by', and R60 ('The engine never writes M'): each register changes only by the
instructions that column names. -/
def Obligations.RegistersChangeOnlyByTheirWriters : Prop :=
  ∀ (i : Instr) (s t : State), exec i s = .next t →
    t.msgLen = s.msgLen ∧ (∀ a, Memory.read t.mem a = Memory.read s.mem a) ∧
    (i.mnemonic ∉ ["FNV1", "FNV1A"] ∨ s.busy = true →
      t.mbm = s.mbm ∧ t.len = s.len ∧ t.nbytes = s.nbytes) ∧
    (i.mnemonic ≠ "SEL" → t.sel = s.sel ∧ t.fold = s.fold ∧ t.errval = s.errval) ∧
    (i.mnemonic ∉ ["INI", "ABS1", "ABS1A", "FLD"] → t.digest = s.digest) ∧
    (i.mnemonic ∉ ["INI", "ABS1", "ABS1A"] → t.idx = s.idx) ∧
    (i.mnemonic ≠ "EMT" → t.obuf = s.obuf ∧ t.olen = s.olen)

/-- R21, R22, R23: MBM, LEN and NBYTES are constant during an operation: while BUSY no step but the reset event
changes them. -/
def Obligations.CommandRegistersConstantWhileBusy : Prop :=
  ∀ s t : State, s.busy = true → s.script.head? ≠ some .reset → step s = .next t →
    t.mbm = s.mbm ∧ t.len = s.len ∧ t.nbytes = s.nbytes

/-- R191: PHASE changes only as the table of control transfers says, each change at its event: an engine turn makes
the engine's transfers (with no host move, with `pass`, or with `wait` while BUSY), a host START goes to SELECT when
BUSY = 0, reset goes to IDLE, and every other step keeps PHASE. The forms of these events, the list of host moves and
the port, are the model's (entries 7, 8). -/
def Obligations.ControlTransfersAreTheTable : Prop :=
  (∀ s t : State, engineTurn s = .next t → s.Transfer t.phase) ∧
  ∀ s t : State, step s = .next t →
    (s.script = [] ∨ s.script.head? = some .pass ∨ (s.script.head? = some .wait ∧ s.busy = true) →
      s.Transfer t.phase) ∧
    (∀ v, s.script.head? = some (.write 0 v) → t.phase = if s.busy then s.phase else .select) ∧
    (s.script.head? = some .reset → t.phase = .idle) ∧
    (∀ m, s.script.head? = some m → m ≠ .pass → m ≠ .reset → (∀ v, m ≠ .write 0 v) →
      (m = .wait → s.busy = false) → t.phase = s.phase)

/-- The invariant (R28, R37, R111, R185, R202 and the canonical form of M) is kept by every step, of the engine and
of the host. -/
def Obligations.StepKeepsInvariant : Prop :=
  ∀ s t : State, s.Inv → step s = .next t → t.Inv

/-- The invariant holds right after reset, where PHASE is IDLE (R46), BUSY, DONE and ERR are 0 and M is in
canonical form. -/
def Obligations.ResetMeetsInvariant : Prop :=
  State.reset.Inv ∧ State.reset.LoopInv ∧ State.reset.phase = .idle ∧ State.reset.statusWord = 0

/-- R130: the loop invariant. In ABSORB DIGEST is the accumulation of the bytes absorbed, after it the canonical
digest of the message, in EMIT the result value; every step keeps it. -/
def Obligations.StepKeepsLoopInvariant : Prop :=
  ∀ s t : State, s.Inv → s.LoopInv → step s = .next t → t.LoopInv

/-- R192: no micro-operation waits on anything and none stops: from every state that meets the invariant the step
answers a next state, whatever the host's next move is. -/
def Obligations.InvariantGivesProgress : Prop :=
  ∀ s : State, s.Inv → Completes (step s)

/-- R192: an operation takes exactly NBYTES + 4 + FOLD engine steps after the START transfer to DONE, or exactly one
to ERROR, and is BUSY all the way. -/
def Obligations.OperationTakesExactlyItsSteps : Prop :=
  ∀ (s : State) (w : BitVec 17), s.busy = false → s.script = [] → s.cmd = some w →
    let L := (w.extractLsb' 0 16).toNat
    let steps := match select L with
      | some c => s.msgLen.toNat + 4 + (if c.foldNeeded then 1 else 0)
      | none => 1
    (∀ j, 1 ≤ j → j ≤ steps → ∃ u, Host.Core.run core j s = .next u ∧ State.busy u = true) ∧
    ∃ t, Host.Core.run core (1 + steps) s = .next t ∧
      State.phase t = (if (select L).isSome then .done else .error)

/-- R190: the end-to-end statement: from any state with BUSY = 0, a command word offered and the host making no
other move, the engine rests with the result value and bytes of `hash`, or with the refused length. -/
def Obligations.OperationComputesHash : Prop :=
  ∀ (s : State) (w : BitVec 17), s.busy = false → s.script = [] → s.cmd = some w →
    let L := (w.extractLsb' 0 16).toNat
    let msg := Memory.message s.mem s.msgLen.toNat
    ∃ n t, Host.Core.run core n s = .next t ∧ State.len t = w.extractLsb' 0 16 ∧
      State.mbm t = w.getLsbD 16 ∧ State.mem t = s.mem ∧ step t = .next t ∧
      (match resultValue ptab (w.getLsbD 16) msg L with
        | some r => State.phase t = .done ∧ (State.digest t).toNat = r ∧
            some ((List.range (State.olen t).toNat).map (obufByte (State.obuf t))) =
              fnvHash ptab serMode (w.getLsbD 16) msg L
        | none => (L < 16 ∨ 1024 < L) ∧ State.phase t = .error ∧ (State.errval t).toNat = L)

/-- R194, R43: what an operation leaves depends on the command word, MSG_LEN at START and the message bytes alone,
not on anything the registers held before. -/
def Obligations.OperationForgetsThePast : Prop :=
  ∀ (s s' : State) (w : BitVec 17), s.busy = false → s'.busy = false → s.script = [] → s'.script = [] →
    s.cmd = some w → s'.cmd = some w → s.msgLen = s'.msgLen →
    (∀ i, i < s.msgLen.toNat → Memory.byte s.mem i = Memory.byte s'.mem i) →
    ∀ n, 1 ≤ n → ∃ t t', Host.Core.run core n s = .next t ∧ Host.Core.run core n s' = .next t' ∧
      State.phase t = State.phase t' ∧
      (State.phase t = .done → State.digest t = State.digest t' ∧ State.olen t = State.olen t' ∧
        ∀ i, i < (State.olen t).toNat → obufByte (State.obuf t) i = obufByte (State.obuf t') i) ∧
      (State.phase t = .error → State.errval t = State.errval t')

/-- R76: M at index NBYTES and above influences no register. -/
def Obligations.MemoryBeyondTheMessageIsIrrelevant : Prop :=
  ∀ (s : State) (m : Memory), (∀ i, i < s.nbytes.toNat → Memory.byte s.mem i = Memory.byte m i) →
    engineTurn { s with mem := m } = mapNext (fun t => { t with mem := m }) (engineTurn s)

/-- R242: a write to MSG_LEN during an operation has no effect on it. -/
def Obligations.MsgLenIsSampledOnce : Prop :=
  ∀ (s : State) (v : BitVec 32), s.busy = true →
    engineTurn (s.writeMsgLen v) = mapNext (fun t => t.writeMsgLen v) (engineTurn s)

/-! ### The host's side -/

/-- R33: STATUS. -/
def Obligations.StatusWordIsTheView : Prop :=
  ∀ s : State,
    (s.statusWord.getLsbD 0 = true ↔ (s.phase = .select ∨ s.phase = .init ∨ s.phase = .absorb ∨
      s.phase = .fold ∨ s.phase = .emit)) ∧
    (s.statusWord.getLsbD 1 = true ↔ s.phase = .done) ∧ (s.statusWord.getLsbD 2 = true ↔ s.phase = .error) ∧
    s.statusWord.extractLsb' 3 3 = s.phase.code ∧ (s.regRead 2).toNat = s.statusWord.toNat ∧
    (s.phase = .idle → (s.statusWord.extractLsb' 0 3).toNat = 0) ∧
    (s.phase ≠ .idle → ((s.statusWord.extractLsb' 0 3).toNat = 1 ∨ (s.statusWord.extractLsb' 0 3).toNat = 2 ∨
      (s.statusWord.extractLsb' 0 3).toNat = 4))

/-- R35, R36: what a host read of a register number returns inside its validity window. -/
def Obligations.HostReadsInTheirWindows : Prop :=
  ∀ s : State,
    s.regRead 1 = s.msgLen ∧
    (s.phase = .error → (s.regRead 3).toNat = s.errval.toNat) ∧
    (s.phase = .done → (s.regRead 4).toNat = s.olen.toNat ∧
      (∀ i, i < 32 → s.regRead (32 + i) = s.digest.extractLsb' (32 * i) 32) ∧
      ∀ i, i < 129 → i < s.olen.toNat → (s.regRead (64 + i)).toNat = (obufByte s.obuf i).toNat) ∧
    (s.phase ≠ .idle → (s.regRead 5).toNat = s.len.toNat ∧ (s.regRead 6).getLsbD 0 = s.mbm) ∧
    (s.selectionValid = true → (s.regRead 6).getLsbD 1 = s.fold ∧
      (s.regRead 6).extractLsb' 2 3 = s.sel) ∧
    (s.indexValid = true → s.regRead 7 = s.idx)

/-- R193, R35: a host read returns the register's value and changes no register. -/
def Obligations.HostReadChangesNoRegister : Prop :=
  ∀ (s : State) (n : Nat) (ms : List HostMove), s.script = .read n :: ms →
    ∃ t, step s = .next t ∧ t.rdata = (s.withScript ms).regRead n ∧
      t = { s with script := ms, rdata := t.rdata, draws := t.draws }

/-- R35, R90: host writes: number 0 is the START of the low 17 bits, number 1 is MSG_LEN, all others do nothing. -/
def Obligations.HostWritesByNumber : Prop :=
  ∀ (s : State) (n : Nat) (v : BitVec 32) (ms : List HostMove), s.script = .write n v :: ms →
    (n = 0 → step s = exec (decodeCmd (v.extractLsb' 0 17)) (s.withScript ms)) ∧
    (n = 1 → step s = .next { s with script := ms, msgLen := v }) ∧
    (2 ≤ n → step s = .next { s with script := ms })

/-- R60, R64: the host writes one byte of M and nothing else of M or of the engine changes; the premise of message
stability breaks exactly when the byte is one of the running operation's. -/
def Obligations.HostPokeWritesOneByte : Prop :=
  ∀ (s : State) (i : BitVec 32) (b : Byte) (ms : List HostMove), s.script = .poke i b :: ms →
    ∃ t, step s = .next t ∧ Memory.byte t.mem i.toNat = b ∧
      (∀ a, a ≠ i.toNat → Memory.read t.mem a = Memory.read s.mem a) ∧
      (t.stable = true ↔ s.stable = true ∧ (s.busy = false ∨ s.nbytes.toNat ≤ i.toNat)) ∧
      t = { s with script := ms, mem := t.mem, stable := t.stable }

/-- R230, R231: the reset event in any phase: PHASE to IDLE, ready for a START; M, the waiting word and the host's
moves are untouched; every other register may hold any value. R230 gives PHASE and M; that a waiting word and the
host's moves survive is the model's choice (entry 27, DEDUCED). -/
def Obligations.ResetEventIdles : Prop :=
  ∀ (s : State) (ms : List HostMove), s.script = .reset :: ms →
    ∃ t, step s = .next t ∧ t.phase = .idle ∧ t.busy = false ∧ t.mem = s.mem ∧ t.cmd = s.cmd ∧
      t.script = ms

/-- R98: WAIT: each poll reads STATUS; while BUSY the engine takes its turn and the host keeps waiting; when BUSY = 0
the host goes on. -/
def Obligations.WaitPollsUntilReady : Prop :=
  ∀ (s : State) (ms : List HostMove), s.script = .wait :: ms →
    (s.busy = true →
      step s = engineTurn { s with rdata := s.statusWord.setWidth 32, draws := s.draws + 1 } ∧
      ∀ t, step s = .next t → t.script = .wait :: ms) ∧
    (s.busy = false → ∃ t, step s = .next t ∧
      t = { s with script := ms, rdata := s.statusWord.setWidth 32, draws := t.draws })

/-- R235, R98: preparing a message: after the host's moves M holds its bytes, MSG_LEN their count, every index of M
above the message reads as before, and no other register has changed. -/
def Obligations.PrepareFillsTheMessage : Prop :=
  ∀ (s : State) (bs : List Byte) (ms : List HostMove), bs.length < 2 ^ 32 →
    s.script = prepareMoves bs ++ ms →
    ∃ t, Host.Core.run core (bs.length + 1) s = .next t ∧
      Memory.message (State.mem t) bs.length = bs ∧ (State.msgLen t).toNat = bs.length ∧
      (∀ a, bs.length ≤ a → Memory.read (State.mem t) a = Memory.read s.mem a) ∧
      t = { s with script := ms, mem := State.mem t, msgLen := State.msgLen t, stable := State.stable t }

/-- R215: engines side by side: a step of one leaves every other as it was, and steps of two different ones can be
taken in either order. -/
def Obligations.EnginesDoNotDisturbEachOther : Prop :=
  (∀ (es es' : System) (i j : Nat), System.stepAt es i = .next es' → j ≠ i → es'[j]? = es[j]?) ∧
  ∀ (es e1 e2 e12 : System) (i j : Nat), i ≠ j → System.stepAt es i = .next e1 →
    System.stepAt e1 j = .next e12 → System.stepAt es j = .next e2 → System.stepAt e2 i = .next e12

/-! ### The parameters of the step (10_state.md R38) -/

/-- R38 (and 92_eei_decisions.md D9, D14): PTAB, and the serialisation, are parameters of the step function: at every
well-formed choice INI starts from its BASIS, ABS1 and ABS1A multiply by its PRIME, EMT writes its bytes; no other
instruction and no host access reads them; `exec` and `step` are the machine at the values taken (entries 11, 12). That
ABS1 and ABS1A take a DIGEST at or above 2^SIZE[SEL] is entry 31's choice, that a table that is not well-formed runs
(the clauses without that premise) entry 33's, OBUF's tail entry 14's, the host's moves entry 7's. -/
def Obligations.StepTakesTheTableAsParameter : Prop :=
  (∀ (i : Instr) (s : State), execWith params i s = exec i s) ∧ (∀ s : State, stepWith params s = step s) ∧
  params.wellFormed = true ∧
  (∀ (p : Config.Params) (s : State), s.script = [] → stepWith p s = execWith p (decode s.nextWord) s) ∧
  (∀ (p : Config.Params) (s : State) (m f l : Bool) (k : Fin 6), p.wellFormed = true → s.sel.toNat = k.val →
    (∃ t, execWith p (.ini m f l) s = .next t ∧ t.digest.toNat = p.ptab[k].basis ∧
      t = { s with digest := t.digest, idx := 0, phase := .absorb }) ∧
    (s.idx.toNat < s.nbytes.toNat → s.stable = true →
      (∃ t, execWith p (.abs1 f) s = .next t ∧
        t.digest.toNat = ((s.digest.toNat * p.ptab[k].prime) % 2 ^ (32 <<< k.val)) ^^^
          (Memory.byte s.mem s.idx.toNat).toNat ∧
        t.idx.toNat = s.idx.toNat + 1 ∧ t = { s with digest := t.digest, idx := t.idx }) ∧
      (∃ t, execWith p (.abs1a f) s = .next t ∧
        t.digest.toNat = ((s.digest.toNat ^^^ (Memory.byte s.mem s.idx.toNat).toNat) * p.ptab[k].prime) %
          2 ^ (32 <<< k.val) ∧
        t.idx.toNat = s.idx.toNat + 1 ∧ t = { s with digest := t.digest, idx := t.idx }))) ∧
  (∀ (p : Config.Params) (s : State) (m f l : Bool), ∃ t, execWith p (.emt m f l) s = .next t ∧
    (List.range t.olen.toNat).map (obufByte t.obuf) = ser p.serMode s.digest.toNat ∧
    t = { s with olen := t.olen, obuf := t.obuf, phase := .done, draws := t.draws }) ∧
  (∀ (p q : Config.Params) (i : Instr) (s : State), i.mnemonic ∉ ["INI", "ABS1", "ABS1A", "EMT"] →
    execWith p i s = execWith q i s) ∧
  (∀ (p q : Config.Params) (s : State) (m : HostMove), s.script.head? = some m → m ≠ .pass →
    (m = .wait → s.busy = false) → stepWith p s = stepWith q s)
end

