-- ==== Sys2Proof/Laws/Arith.lean ====
section
/-! SUPPORT. The ranges of the pure functions, one lemma each. -/

namespace Sys2Proof.Machine

open Sys2Proof

theorem bitlen_le_iff (v n : Nat) : bitlen v ≤ n ↔ v < 2 ^ n := by
  unfold bitlen
  split_ifs with h
  · subst h; simp
  · rw [Nat.succ_le_iff, Nat.log2_lt h]

theorem xorb_lt {d b n : Nat} (hd : d < 2 ^ n) (hn : 8 ≤ n) : xorb d b < 2 ^ n := by
  refine Nat.xor_lt_two_pow hd (lt_of_le_of_lt Nat.and_le_right ?_)
  calc 0xFF < 2 ^ 8 := by decide
    _ ≤ 2 ^ n := Nat.pow_le_pow_right (by decide) hn

theorem mulp_lt (p : Config.Ptab) (k : Fin 6) (d : Nat) : mulp p k d < 2 ^ canonSize k :=
  Nat.mod_lt _ (Nat.two_pow_pos _)

theorem xorFold_lt (d t : Nat) : xorFold d t < 2 ^ t :=
  Nat.lt_of_le_of_lt Nat.and_le_right (Nat.sub_lt (Nat.two_pow_pos t) Nat.one_pos)

theorem canonSize_ge (k : Fin 6) : 32 ≤ canonSize k := by
  revert k; decide

theorem canonSize_le (k : Fin 6) : canonSize k ≤ 1024 := by
  revert k; decide

/-- A number of the datapath's width is kept whole in DIGEST. -/
theorem digest_toNat {d : Nat} (h : d < 2 ^ 1024) : (BitVec.ofNat 1024 d).toNat = d := by
  rw [BitVec.toNat_ofNat, Nat.mod_eq_of_lt h]

theorem two_pow_canonSize_le (k : Fin 6) : 2 ^ canonSize k ≤ 2 ^ 1024 :=
  Nat.pow_le_pow_right (by decide) (canonSize_le k)

theorem ptab_wellFormed : Config.Ptab.wellFormed ptab = true := by decide +kernel

theorem basis_lt (k : Fin 6) : ptab[k].basis < 2 ^ canonSize k := by
  revert k; decide +kernel

@[simp] theorem ser_length (m : Config.SerMode) (v : Nat) : (ser m v).length = serLen m v := by
  simp [ser]

theorem ser_getD (m : Config.SerMode) (v i : Nat) (h : i < serLen m v) :
    (ser m v).getD i 0 = byteAt v (serLen m v - 1 - i) := by
  simp [ser, h]

theorem serLen_le (m : Config.SerMode) {v : Nat} (h : v < 2 ^ 1024) : serLen m v ≤ 129 := by
  have := (bitlen_le_iff v 1024).mpr h
  cases m <;> simp only [serLen] <;> omega

@[simp] theorem accumulate_nil (p : Config.Ptab) (k : Fin 6) (mbm : Bool) :
    accumulate p k mbm [] = p[k].basis := rfl

theorem accumulate_snoc (p : Config.Ptab) (k : Fin 6) (mbm : Bool) (bs : List Byte) (b : Byte) :
    accumulate p k mbm (bs ++ [b]) = mix p k mbm (accumulate p k mbm bs) b.toNat := by
  simp [accumulate]

theorem mix_lt (p : Config.Ptab) (k : Fin 6) (mbm : Bool) (d b : Nat) : mix p k mbm d b < 2 ^ canonSize k := by
  cases mbm
  · exact xorb_lt (mulp_lt p k d) (le_trans (by decide) (canonSize_ge k))
  · exact mulp_lt p k _

/-- What a selection says of the length: in range, covered by the size, and folded when below it. -/
theorem select_some {L : Nat} {c : Selection} (h : select L = some c) :
    16 ≤ L ∧ L ≤ 1024 ∧ c.size = canonSize c.k ∧ L ≤ c.size ∧ c.foldNeeded = decide (L < c.size) := by
  unfold select at h
  split_ifs at h with hr
  obtain ⟨k, hk, rfl⟩ := Option.map_eq_some_iff.mp h
  have := List.find?_some hk
  exact ⟨hr.1, hr.2, rfl, by simpa using this, rfl⟩

/-- The lengths that are refused. -/
theorem select_eq_none_iff (L : Nat) : select L = none ↔ L < 16 ∨ 1024 < L := by
  unfold select
  by_cases h : Config.lenMin ≤ L ∧ L ≤ Config.lenMax
  · have h' : 16 ≤ L ∧ L ≤ 1024 := h
    rw [if_pos h]
    simp only [Option.map_eq_none_iff, List.find?_eq_none]
    refine ⟨fun hh => ?_, by omega⟩
    have := hh 5 (by simp)
    rw [decide_eq_true_eq] at this
    exact absurd h.2 this
  · have h' : ¬ (16 ≤ L ∧ L ≤ 1024) := h
    rw [if_neg h]
    exact ⟨fun _ => by omega, fun _ => rfl⟩

theorem selIndex_ofNat (k : Fin 6) : selIndex (BitVec.ofNat 3 k) = some k := by
  revert k; decide

end Sys2Proof.Machine
end

