-- ==== Sys2Proof/Laws/State.lean ====
section
/-! SUPPORT. Each named update of the state, field by field: what it writes and what it leaves. All hold by
unfolding the one record update, so that no later proof unfolds it again. -/

namespace Sys2Proof.Machine

open Sys2Proof

section
variable (s : State) (mbm : Bool) (len : BitVec 16)

@[simp] theorem State.startTransfer_msgLen : (s.startTransfer mbm len).msgLen = s.msgLen := rfl
@[simp] theorem State.startTransfer_mbm : (s.startTransfer mbm len).mbm = mbm := rfl
@[simp] theorem State.startTransfer_len : (s.startTransfer mbm len).len = len := rfl
@[simp] theorem State.startTransfer_nbytes : (s.startTransfer mbm len).nbytes = s.msgLen := rfl
@[simp] theorem State.startTransfer_phase : (s.startTransfer mbm len).phase = .select := rfl
@[simp] theorem State.startTransfer_sel : (s.startTransfer mbm len).sel = s.sel := rfl
@[simp] theorem State.startTransfer_fold : (s.startTransfer mbm len).fold = s.fold := rfl
@[simp] theorem State.startTransfer_digest : (s.startTransfer mbm len).digest = s.digest := rfl
@[simp] theorem State.startTransfer_idx : (s.startTransfer mbm len).idx = s.idx := rfl
@[simp] theorem State.startTransfer_obuf : (s.startTransfer mbm len).obuf = s.obuf := rfl
@[simp] theorem State.startTransfer_olen : (s.startTransfer mbm len).olen = s.olen := rfl
@[simp] theorem State.startTransfer_errval : (s.startTransfer mbm len).errval = s.errval := rfl
@[simp] theorem State.startTransfer_mem : (s.startTransfer mbm len).mem = s.mem := rfl
@[simp] theorem State.startTransfer_cmd : (s.startTransfer mbm len).cmd = none := rfl
@[simp] theorem State.startTransfer_rdata : (s.startTransfer mbm len).rdata = s.rdata := rfl
@[simp] theorem State.startTransfer_script : (s.startTransfer mbm len).script = s.script := rfl
@[simp] theorem State.startTransfer_stable : (s.startTransfer mbm len).stable = true := rfl
@[simp] theorem State.startTransfer_draws : (s.startTransfer mbm len).draws = s.draws := rfl

end

section
variable (s : State) (w : BitVec 17)

@[simp] theorem State.offer_msgLen : (s.offer w).msgLen = s.msgLen := rfl
@[simp] theorem State.offer_mbm : (s.offer w).mbm = s.mbm := rfl
@[simp] theorem State.offer_len : (s.offer w).len = s.len := rfl
@[simp] theorem State.offer_nbytes : (s.offer w).nbytes = s.nbytes := rfl
@[simp] theorem State.offer_phase : (s.offer w).phase = s.phase := rfl
@[simp] theorem State.offer_sel : (s.offer w).sel = s.sel := rfl
@[simp] theorem State.offer_fold : (s.offer w).fold = s.fold := rfl
@[simp] theorem State.offer_digest : (s.offer w).digest = s.digest := rfl
@[simp] theorem State.offer_idx : (s.offer w).idx = s.idx := rfl
@[simp] theorem State.offer_obuf : (s.offer w).obuf = s.obuf := rfl
@[simp] theorem State.offer_olen : (s.offer w).olen = s.olen := rfl
@[simp] theorem State.offer_errval : (s.offer w).errval = s.errval := rfl
@[simp] theorem State.offer_mem : (s.offer w).mem = s.mem := rfl
@[simp] theorem State.offer_cmd : (s.offer w).cmd = some w := rfl
@[simp] theorem State.offer_rdata : (s.offer w).rdata = s.rdata := rfl
@[simp] theorem State.offer_script : (s.offer w).script = s.script := rfl
@[simp] theorem State.offer_stable : (s.offer w).stable = s.stable := rfl
@[simp] theorem State.offer_draws : (s.offer w).draws = s.draws := rfl

end

section
variable (s : State) (v : BitVec 16)

@[simp] theorem State.raiseUnsupportedLength_msgLen :
    (s.raiseUnsupportedLength v).msgLen = s.msgLen := rfl
@[simp] theorem State.raiseUnsupportedLength_mbm : (s.raiseUnsupportedLength v).mbm = s.mbm := rfl
@[simp] theorem State.raiseUnsupportedLength_len : (s.raiseUnsupportedLength v).len = s.len := rfl
@[simp] theorem State.raiseUnsupportedLength_nbytes :
    (s.raiseUnsupportedLength v).nbytes = s.nbytes := rfl
@[simp] theorem State.raiseUnsupportedLength_phase : (s.raiseUnsupportedLength v).phase = .error := rfl
@[simp] theorem State.raiseUnsupportedLength_sel : (s.raiseUnsupportedLength v).sel = s.sel := rfl
@[simp] theorem State.raiseUnsupportedLength_fold : (s.raiseUnsupportedLength v).fold = s.fold := rfl
@[simp] theorem State.raiseUnsupportedLength_digest :
    (s.raiseUnsupportedLength v).digest = s.digest := rfl
@[simp] theorem State.raiseUnsupportedLength_idx : (s.raiseUnsupportedLength v).idx = s.idx := rfl
@[simp] theorem State.raiseUnsupportedLength_obuf : (s.raiseUnsupportedLength v).obuf = s.obuf := rfl
@[simp] theorem State.raiseUnsupportedLength_olen : (s.raiseUnsupportedLength v).olen = s.olen := rfl
@[simp] theorem State.raiseUnsupportedLength_errval : (s.raiseUnsupportedLength v).errval = v := rfl
@[simp] theorem State.raiseUnsupportedLength_mem : (s.raiseUnsupportedLength v).mem = s.mem := rfl
@[simp] theorem State.raiseUnsupportedLength_cmd : (s.raiseUnsupportedLength v).cmd = s.cmd := rfl
@[simp] theorem State.raiseUnsupportedLength_rdata : (s.raiseUnsupportedLength v).rdata = s.rdata := rfl
@[simp] theorem State.raiseUnsupportedLength_script :
    (s.raiseUnsupportedLength v).script = s.script := rfl
@[simp] theorem State.raiseUnsupportedLength_stable :
    (s.raiseUnsupportedLength v).stable = s.stable := rfl
@[simp] theorem State.raiseUnsupportedLength_draws : (s.raiseUnsupportedLength v).draws = s.draws := rfl

end

section
variable (s : State)

@[simp] theorem State.resetEvent_msgLen : (s.resetEvent).msgLen = Config.free 32 s.draws 0 := rfl
@[simp] theorem State.resetEvent_mbm : (s.resetEvent).mbm = (Config.free 1 s.draws 1).getLsbD 0 := rfl
@[simp] theorem State.resetEvent_len : (s.resetEvent).len = Config.free 16 s.draws 2 := rfl
@[simp] theorem State.resetEvent_nbytes : (s.resetEvent).nbytes = Config.free 32 s.draws 3 := rfl
@[simp] theorem State.resetEvent_phase : (s.resetEvent).phase = .idle := rfl
@[simp] theorem State.resetEvent_sel : (s.resetEvent).sel = Config.free 3 s.draws 4 := rfl
@[simp] theorem State.resetEvent_fold : (s.resetEvent).fold = (Config.free 1 s.draws 5).getLsbD 0 := rfl
@[simp] theorem State.resetEvent_digest : (s.resetEvent).digest = Config.free 1024 s.draws 6 := rfl
@[simp] theorem State.resetEvent_idx : (s.resetEvent).idx = Config.free 32 s.draws 7 := rfl
@[simp] theorem State.resetEvent_obuf :
    (s.resetEvent).obuf = Vector.ofFn fun i => Config.free 8 s.draws (10 + i) := rfl
@[simp] theorem State.resetEvent_olen : (s.resetEvent).olen = Config.free 8 s.draws 8 := rfl
@[simp] theorem State.resetEvent_errval : (s.resetEvent).errval = Config.free 16 s.draws 9 := rfl
@[simp] theorem State.resetEvent_mem : (s.resetEvent).mem = s.mem := rfl
@[simp] theorem State.resetEvent_cmd : (s.resetEvent).cmd = s.cmd := rfl
@[simp] theorem State.resetEvent_rdata : (s.resetEvent).rdata = s.rdata := rfl
@[simp] theorem State.resetEvent_script : (s.resetEvent).script = s.script := rfl
@[simp] theorem State.resetEvent_stable : (s.resetEvent).stable = s.stable := rfl
@[simp] theorem State.resetEvent_draws : (s.resetEvent).draws = s.draws + 1 := rfl

end

section
variable (s : State) (c : Selection)

@[simp] theorem State.latchSelection_msgLen : (s.latchSelection c).msgLen = s.msgLen := rfl
@[simp] theorem State.latchSelection_mbm : (s.latchSelection c).mbm = s.mbm := rfl
@[simp] theorem State.latchSelection_len : (s.latchSelection c).len = s.len := rfl
@[simp] theorem State.latchSelection_nbytes : (s.latchSelection c).nbytes = s.nbytes := rfl
@[simp] theorem State.latchSelection_phase : (s.latchSelection c).phase = .init := rfl
@[simp] theorem State.latchSelection_sel : (s.latchSelection c).sel = BitVec.ofNat 3 c.k := rfl
@[simp] theorem State.latchSelection_fold : (s.latchSelection c).fold = c.foldNeeded := rfl
@[simp] theorem State.latchSelection_digest : (s.latchSelection c).digest = s.digest := rfl
@[simp] theorem State.latchSelection_idx : (s.latchSelection c).idx = s.idx := rfl
@[simp] theorem State.latchSelection_obuf : (s.latchSelection c).obuf = s.obuf := rfl
@[simp] theorem State.latchSelection_olen : (s.latchSelection c).olen = s.olen := rfl
@[simp] theorem State.latchSelection_errval : (s.latchSelection c).errval = s.errval := rfl
@[simp] theorem State.latchSelection_mem : (s.latchSelection c).mem = s.mem := rfl
@[simp] theorem State.latchSelection_cmd : (s.latchSelection c).cmd = s.cmd := rfl
@[simp] theorem State.latchSelection_rdata : (s.latchSelection c).rdata = s.rdata := rfl
@[simp] theorem State.latchSelection_script : (s.latchSelection c).script = s.script := rfl
@[simp] theorem State.latchSelection_stable : (s.latchSelection c).stable = s.stable := rfl
@[simp] theorem State.latchSelection_draws : (s.latchSelection c).draws = s.draws := rfl

end

section
variable (s : State) (p : Config.Ptab) (k : Fin 6)

@[simp] theorem State.initDigest_msgLen : (s.initDigest p k).msgLen = s.msgLen := rfl
@[simp] theorem State.initDigest_mbm : (s.initDigest p k).mbm = s.mbm := rfl
@[simp] theorem State.initDigest_len : (s.initDigest p k).len = s.len := rfl
@[simp] theorem State.initDigest_nbytes : (s.initDigest p k).nbytes = s.nbytes := rfl
@[simp] theorem State.initDigest_phase : (s.initDigest p k).phase = .absorb := rfl
@[simp] theorem State.initDigest_sel : (s.initDigest p k).sel = s.sel := rfl
@[simp] theorem State.initDigest_fold : (s.initDigest p k).fold = s.fold := rfl
@[simp] theorem State.initDigest_digest :
    (s.initDigest p k).digest = BitVec.ofNat 1024 p[k].basis := rfl
@[simp] theorem State.initDigest_idx : (s.initDigest p k).idx = 0 := rfl
@[simp] theorem State.initDigest_obuf : (s.initDigest p k).obuf = s.obuf := rfl
@[simp] theorem State.initDigest_olen : (s.initDigest p k).olen = s.olen := rfl
@[simp] theorem State.initDigest_errval : (s.initDigest p k).errval = s.errval := rfl
@[simp] theorem State.initDigest_mem : (s.initDigest p k).mem = s.mem := rfl
@[simp] theorem State.initDigest_cmd : (s.initDigest p k).cmd = s.cmd := rfl
@[simp] theorem State.initDigest_rdata : (s.initDigest p k).rdata = s.rdata := rfl
@[simp] theorem State.initDigest_script : (s.initDigest p k).script = s.script := rfl
@[simp] theorem State.initDigest_stable : (s.initDigest p k).stable = s.stable := rfl
@[simp] theorem State.initDigest_draws : (s.initDigest p k).draws = s.draws := rfl

end

section
variable (s : State) (d : Nat)

@[simp] theorem State.absorbed_msgLen : (s.absorbed d).msgLen = s.msgLen := rfl
@[simp] theorem State.absorbed_mbm : (s.absorbed d).mbm = s.mbm := rfl
@[simp] theorem State.absorbed_len : (s.absorbed d).len = s.len := rfl
@[simp] theorem State.absorbed_nbytes : (s.absorbed d).nbytes = s.nbytes := rfl
@[simp] theorem State.absorbed_phase : (s.absorbed d).phase = s.phase := rfl
@[simp] theorem State.absorbed_sel : (s.absorbed d).sel = s.sel := rfl
@[simp] theorem State.absorbed_fold : (s.absorbed d).fold = s.fold := rfl
@[simp] theorem State.absorbed_digest : (s.absorbed d).digest = BitVec.ofNat 1024 d := rfl
@[simp] theorem State.absorbed_idx : (s.absorbed d).idx = s.idx + 1 := rfl
@[simp] theorem State.absorbed_obuf : (s.absorbed d).obuf = s.obuf := rfl
@[simp] theorem State.absorbed_olen : (s.absorbed d).olen = s.olen := rfl
@[simp] theorem State.absorbed_errval : (s.absorbed d).errval = s.errval := rfl
@[simp] theorem State.absorbed_mem : (s.absorbed d).mem = s.mem := rfl
@[simp] theorem State.absorbed_cmd : (s.absorbed d).cmd = s.cmd := rfl
@[simp] theorem State.absorbed_rdata : (s.absorbed d).rdata = s.rdata := rfl
@[simp] theorem State.absorbed_script : (s.absorbed d).script = s.script := rfl
@[simp] theorem State.absorbed_stable : (s.absorbed d).stable = s.stable := rfl
@[simp] theorem State.absorbed_draws : (s.absorbed d).draws = s.drawsAfterRead := rfl

end

section
variable (s : State)

@[simp] theorem State.leaveLoop_msgLen : (s.leaveLoop).msgLen = s.msgLen := rfl
@[simp] theorem State.leaveLoop_mbm : (s.leaveLoop).mbm = s.mbm := rfl
@[simp] theorem State.leaveLoop_len : (s.leaveLoop).len = s.len := rfl
@[simp] theorem State.leaveLoop_nbytes : (s.leaveLoop).nbytes = s.nbytes := rfl
@[simp] theorem State.leaveLoop_phase : (s.leaveLoop).phase = if s.fold then .fold else .emit := rfl
@[simp] theorem State.leaveLoop_sel : (s.leaveLoop).sel = s.sel := rfl
@[simp] theorem State.leaveLoop_fold : (s.leaveLoop).fold = s.fold := rfl
@[simp] theorem State.leaveLoop_digest : (s.leaveLoop).digest = s.digest := rfl
@[simp] theorem State.leaveLoop_idx : (s.leaveLoop).idx = s.idx := rfl
@[simp] theorem State.leaveLoop_obuf : (s.leaveLoop).obuf = s.obuf := rfl
@[simp] theorem State.leaveLoop_olen : (s.leaveLoop).olen = s.olen := rfl
@[simp] theorem State.leaveLoop_errval : (s.leaveLoop).errval = s.errval := rfl
@[simp] theorem State.leaveLoop_mem : (s.leaveLoop).mem = s.mem := rfl
@[simp] theorem State.leaveLoop_cmd : (s.leaveLoop).cmd = s.cmd := rfl
@[simp] theorem State.leaveLoop_rdata : (s.leaveLoop).rdata = s.rdata := rfl
@[simp] theorem State.leaveLoop_script : (s.leaveLoop).script = s.script := rfl
@[simp] theorem State.leaveLoop_stable : (s.leaveLoop).stable = s.stable := rfl
@[simp] theorem State.leaveLoop_draws : (s.leaveLoop).draws = s.draws := rfl

end

section
variable (s : State)

@[simp] theorem State.foldDigest_msgLen : (s.foldDigest).msgLen = s.msgLen := rfl
@[simp] theorem State.foldDigest_mbm : (s.foldDigest).mbm = s.mbm := rfl
@[simp] theorem State.foldDigest_len : (s.foldDigest).len = s.len := rfl
@[simp] theorem State.foldDigest_nbytes : (s.foldDigest).nbytes = s.nbytes := rfl
@[simp] theorem State.foldDigest_phase : (s.foldDigest).phase = .emit := rfl
@[simp] theorem State.foldDigest_sel : (s.foldDigest).sel = s.sel := rfl
@[simp] theorem State.foldDigest_fold : (s.foldDigest).fold = s.fold := rfl
@[simp] theorem State.foldDigest_digest :
    (s.foldDigest).digest = BitVec.ofNat 1024 (xorFold s.digest.toNat s.lenVal) := rfl
@[simp] theorem State.foldDigest_idx : (s.foldDigest).idx = s.idx := rfl
@[simp] theorem State.foldDigest_obuf : (s.foldDigest).obuf = s.obuf := rfl
@[simp] theorem State.foldDigest_olen : (s.foldDigest).olen = s.olen := rfl
@[simp] theorem State.foldDigest_errval : (s.foldDigest).errval = s.errval := rfl
@[simp] theorem State.foldDigest_mem : (s.foldDigest).mem = s.mem := rfl
@[simp] theorem State.foldDigest_cmd : (s.foldDigest).cmd = s.cmd := rfl
@[simp] theorem State.foldDigest_rdata : (s.foldDigest).rdata = s.rdata := rfl
@[simp] theorem State.foldDigest_script : (s.foldDigest).script = s.script := rfl
@[simp] theorem State.foldDigest_stable : (s.foldDigest).stable = s.stable := rfl
@[simp] theorem State.foldDigest_draws : (s.foldDigest).draws = s.draws := rfl

end

section
variable (s : State) (m : Config.SerMode)

@[simp] theorem State.emit_msgLen : (s.emit m).msgLen = s.msgLen := rfl
@[simp] theorem State.emit_mbm : (s.emit m).mbm = s.mbm := rfl
@[simp] theorem State.emit_len : (s.emit m).len = s.len := rfl
@[simp] theorem State.emit_nbytes : (s.emit m).nbytes = s.nbytes := rfl
@[simp] theorem State.emit_phase : (s.emit m).phase = .done := rfl
@[simp] theorem State.emit_sel : (s.emit m).sel = s.sel := rfl
@[simp] theorem State.emit_fold : (s.emit m).fold = s.fold := rfl
@[simp] theorem State.emit_digest : (s.emit m).digest = s.digest := rfl
@[simp] theorem State.emit_idx : (s.emit m).idx = s.idx := rfl
@[simp] theorem State.emit_obuf :
    (s.emit m).obuf = obufWriteAll (Vector.ofFn fun i => Config.free 8 s.draws i) 0
      (ser m s.digest.toNat) := rfl
@[simp] theorem State.emit_olen : (s.emit m).olen = BitVec.ofNat 8 (serLen m s.digest.toNat) := rfl
@[simp] theorem State.emit_errval : (s.emit m).errval = s.errval := rfl
@[simp] theorem State.emit_mem : (s.emit m).mem = s.mem := rfl
@[simp] theorem State.emit_cmd : (s.emit m).cmd = s.cmd := rfl
@[simp] theorem State.emit_rdata : (s.emit m).rdata = s.rdata := rfl
@[simp] theorem State.emit_script : (s.emit m).script = s.script := rfl
@[simp] theorem State.emit_stable : (s.emit m).stable = s.stable := rfl
@[simp] theorem State.emit_draws : (s.emit m).draws = s.draws + 1 := rfl

end

section
variable (s : State) (n : Nat)

@[simp] theorem State.hostRead_msgLen : (s.hostRead n).msgLen = s.msgLen := rfl
@[simp] theorem State.hostRead_mbm : (s.hostRead n).mbm = s.mbm := rfl
@[simp] theorem State.hostRead_len : (s.hostRead n).len = s.len := rfl
@[simp] theorem State.hostRead_nbytes : (s.hostRead n).nbytes = s.nbytes := rfl
@[simp] theorem State.hostRead_phase : (s.hostRead n).phase = s.phase := rfl
@[simp] theorem State.hostRead_sel : (s.hostRead n).sel = s.sel := rfl
@[simp] theorem State.hostRead_fold : (s.hostRead n).fold = s.fold := rfl
@[simp] theorem State.hostRead_digest : (s.hostRead n).digest = s.digest := rfl
@[simp] theorem State.hostRead_idx : (s.hostRead n).idx = s.idx := rfl
@[simp] theorem State.hostRead_obuf : (s.hostRead n).obuf = s.obuf := rfl
@[simp] theorem State.hostRead_olen : (s.hostRead n).olen = s.olen := rfl
@[simp] theorem State.hostRead_errval : (s.hostRead n).errval = s.errval := rfl
@[simp] theorem State.hostRead_mem : (s.hostRead n).mem = s.mem := rfl
@[simp] theorem State.hostRead_cmd : (s.hostRead n).cmd = s.cmd := rfl
@[simp] theorem State.hostRead_rdata : (s.hostRead n).rdata = s.regRead n := rfl
@[simp] theorem State.hostRead_script : (s.hostRead n).script = s.script := rfl
@[simp] theorem State.hostRead_stable : (s.hostRead n).stable = s.stable := rfl
@[simp] theorem State.hostRead_draws : (s.hostRead n).draws = s.draws + 1 := rfl

end

section
variable (s : State) (v : BitVec 32)

@[simp] theorem State.writeMsgLen_msgLen : (s.writeMsgLen v).msgLen = v := rfl
@[simp] theorem State.writeMsgLen_mbm : (s.writeMsgLen v).mbm = s.mbm := rfl
@[simp] theorem State.writeMsgLen_len : (s.writeMsgLen v).len = s.len := rfl
@[simp] theorem State.writeMsgLen_nbytes : (s.writeMsgLen v).nbytes = s.nbytes := rfl
@[simp] theorem State.writeMsgLen_phase : (s.writeMsgLen v).phase = s.phase := rfl
@[simp] theorem State.writeMsgLen_sel : (s.writeMsgLen v).sel = s.sel := rfl
@[simp] theorem State.writeMsgLen_fold : (s.writeMsgLen v).fold = s.fold := rfl
@[simp] theorem State.writeMsgLen_digest : (s.writeMsgLen v).digest = s.digest := rfl
@[simp] theorem State.writeMsgLen_idx : (s.writeMsgLen v).idx = s.idx := rfl
@[simp] theorem State.writeMsgLen_obuf : (s.writeMsgLen v).obuf = s.obuf := rfl
@[simp] theorem State.writeMsgLen_olen : (s.writeMsgLen v).olen = s.olen := rfl
@[simp] theorem State.writeMsgLen_errval : (s.writeMsgLen v).errval = s.errval := rfl
@[simp] theorem State.writeMsgLen_mem : (s.writeMsgLen v).mem = s.mem := rfl
@[simp] theorem State.writeMsgLen_cmd : (s.writeMsgLen v).cmd = s.cmd := rfl
@[simp] theorem State.writeMsgLen_rdata : (s.writeMsgLen v).rdata = s.rdata := rfl
@[simp] theorem State.writeMsgLen_script : (s.writeMsgLen v).script = s.script := rfl
@[simp] theorem State.writeMsgLen_stable : (s.writeMsgLen v).stable = s.stable := rfl
@[simp] theorem State.writeMsgLen_draws : (s.writeMsgLen v).draws = s.draws := rfl

end

section
variable (s : State) (i : BitVec 32) (b : Byte)

@[simp] theorem State.poke_msgLen : (s.poke i b).msgLen = s.msgLen := rfl
@[simp] theorem State.poke_mbm : (s.poke i b).mbm = s.mbm := rfl
@[simp] theorem State.poke_len : (s.poke i b).len = s.len := rfl
@[simp] theorem State.poke_nbytes : (s.poke i b).nbytes = s.nbytes := rfl
@[simp] theorem State.poke_phase : (s.poke i b).phase = s.phase := rfl
@[simp] theorem State.poke_sel : (s.poke i b).sel = s.sel := rfl
@[simp] theorem State.poke_fold : (s.poke i b).fold = s.fold := rfl
@[simp] theorem State.poke_digest : (s.poke i b).digest = s.digest := rfl
@[simp] theorem State.poke_idx : (s.poke i b).idx = s.idx := rfl
@[simp] theorem State.poke_obuf : (s.poke i b).obuf = s.obuf := rfl
@[simp] theorem State.poke_olen : (s.poke i b).olen = s.olen := rfl
@[simp] theorem State.poke_errval : (s.poke i b).errval = s.errval := rfl
@[simp] theorem State.poke_mem : (s.poke i b).mem = Memory.write s.mem i.toNat b := rfl
@[simp] theorem State.poke_cmd : (s.poke i b).cmd = s.cmd := rfl
@[simp] theorem State.poke_rdata : (s.poke i b).rdata = s.rdata := rfl
@[simp] theorem State.poke_script : (s.poke i b).script = s.script := rfl
@[simp] theorem State.poke_stable :
    (s.poke i b).stable = (s.stable && !(s.busy && decide (i.toNat < s.nbytes.toNat))) := rfl
@[simp] theorem State.poke_draws : (s.poke i b).draws = s.draws := rfl

end

section
variable (s : State)

@[simp] theorem State.withdraw_msgLen : (s.withdraw).msgLen = s.msgLen := rfl
@[simp] theorem State.withdraw_mbm : (s.withdraw).mbm = s.mbm := rfl
@[simp] theorem State.withdraw_len : (s.withdraw).len = s.len := rfl
@[simp] theorem State.withdraw_nbytes : (s.withdraw).nbytes = s.nbytes := rfl
@[simp] theorem State.withdraw_phase : (s.withdraw).phase = s.phase := rfl
@[simp] theorem State.withdraw_sel : (s.withdraw).sel = s.sel := rfl
@[simp] theorem State.withdraw_fold : (s.withdraw).fold = s.fold := rfl
@[simp] theorem State.withdraw_digest : (s.withdraw).digest = s.digest := rfl
@[simp] theorem State.withdraw_idx : (s.withdraw).idx = s.idx := rfl
@[simp] theorem State.withdraw_obuf : (s.withdraw).obuf = s.obuf := rfl
@[simp] theorem State.withdraw_olen : (s.withdraw).olen = s.olen := rfl
@[simp] theorem State.withdraw_errval : (s.withdraw).errval = s.errval := rfl
@[simp] theorem State.withdraw_mem : (s.withdraw).mem = s.mem := rfl
@[simp] theorem State.withdraw_cmd : (s.withdraw).cmd = none := rfl
@[simp] theorem State.withdraw_rdata : (s.withdraw).rdata = s.rdata := rfl
@[simp] theorem State.withdraw_script : (s.withdraw).script = s.script := rfl
@[simp] theorem State.withdraw_stable : (s.withdraw).stable = s.stable := rfl
@[simp] theorem State.withdraw_draws : (s.withdraw).draws = s.draws := rfl

end

section
variable (s : State) (ms : List HostMove)

@[simp] theorem State.withScript_msgLen : (s.withScript ms).msgLen = s.msgLen := rfl
@[simp] theorem State.withScript_mbm : (s.withScript ms).mbm = s.mbm := rfl
@[simp] theorem State.withScript_len : (s.withScript ms).len = s.len := rfl
@[simp] theorem State.withScript_nbytes : (s.withScript ms).nbytes = s.nbytes := rfl
@[simp] theorem State.withScript_phase : (s.withScript ms).phase = s.phase := rfl
@[simp] theorem State.withScript_sel : (s.withScript ms).sel = s.sel := rfl
@[simp] theorem State.withScript_fold : (s.withScript ms).fold = s.fold := rfl
@[simp] theorem State.withScript_digest : (s.withScript ms).digest = s.digest := rfl
@[simp] theorem State.withScript_idx : (s.withScript ms).idx = s.idx := rfl
@[simp] theorem State.withScript_obuf : (s.withScript ms).obuf = s.obuf := rfl
@[simp] theorem State.withScript_olen : (s.withScript ms).olen = s.olen := rfl
@[simp] theorem State.withScript_errval : (s.withScript ms).errval = s.errval := rfl
@[simp] theorem State.withScript_mem : (s.withScript ms).mem = s.mem := rfl
@[simp] theorem State.withScript_cmd : (s.withScript ms).cmd = s.cmd := rfl
@[simp] theorem State.withScript_rdata : (s.withScript ms).rdata = s.rdata := rfl
@[simp] theorem State.withScript_script : (s.withScript ms).script = ms := rfl
@[simp] theorem State.withScript_stable : (s.withScript ms).stable = s.stable := rfl
@[simp] theorem State.withScript_draws : (s.withScript ms).draws = s.draws := rfl

end

end Sys2Proof.Machine
end

