-- ==== Sys2Proof/Laws/Exec.lean ====
section
/-! SUPPORT. What an instruction can do, said once: `Ran p i s t` lists, one constructor per instruction and
case, every next state `execWith p` can answer; `execWith_next_iff` says the list is exact, and `exec_next_iff` is the
same of `exec`, the machine at `params`. One lemma per shared operation stands before it. -/

namespace Sys2Proof.Machine

open Sys2Proof

theorem selIndex_eq_some_iff (c : BitVec 3) (k : Fin 6) : selIndex c = some k ↔ c.toNat = k.val := by
  unfold selIndex
  split_ifs with h
  · simp [Fin.ext_iff]
  · simp only [false_iff]
    omega

theorem selIndex_eq_none_iff (c : BitVec 3) : selIndex c = none ↔ 6 ≤ c.toNat := by
  unfold selIndex
  split_ifs with h
  · simpa using h
  · simpa using h

/-- A START offered: it transfers when BUSY = 0. -/
theorem State.start_of_ready {s : State} (h : s.busy = false) (mbm : Bool) (len : BitVec 16) :
    s.start mbm len = s.startTransfer mbm len := by simp [State.start, State.cmdReady, h]

/-- A START offered while BUSY waits at the port. -/
theorem State.start_of_busy {s : State} (h : s.busy = true) (mbm : Bool) (len : BitVec 16) :
    s.start mbm len = s.offer (cmdBits mbm len) := by simp [State.start, State.cmdReady, h]

/-- Everything an absorb step can do. -/
theorem absorb_next_iff (f : Fin 6 → Nat → Nat → Nat) (s t : State) :
    absorb f s = .next t ↔ ∃ k, selIndex s.sel = some k ∧ s.idx.toNat < s.nbytes.toNat ∧
      t = s.absorbed (f k s.digest.toNat (s.memRead s.idx.toNat).toNat) := by
  unfold absorb
  cases hk : selIndex s.sel with
  | none => simp
  | some k =>
    by_cases h : s.idx.toNat < s.nbytes.toNat
    · simp [h, eq_comm]
    · simp [h]

/-- `exec` is the machine at the parameters this model takes. -/
theorem execWith_params (i : Instr) (s : State) : execWith params i s = exec i s := by cases i <;> rfl

theorem execWith_params_eq : execWith params = exec := funext fun i => funext (execWith_params i)

/-- Every next state an instruction can answer, at the parameters `p`. -/
inductive Ran (p : Config.Params) : Instr → State → State → Prop where
  | fnv1 (len : BitVec 16) (s : State) : Ran p (.fnv1 len) s (s.start false len)
  | fnv1a (len : BitVec 16) (s : State) : Ran p (.fnv1a len) s (s.start true len)
  | idle (m f l : Bool) (s : State) : Ran p (.idle m f l) s s
  | done (m f l : Bool) (s : State) : Ran p (.done m f l) s s
  | error (m f l : Bool) (s : State) : Ran p (.error m f l) s s
  | sel (m f l : Bool) (s : State) (c : Selection) (h : select s.lenVal = some c) :
      Ran p (.sel m f l) s (s.latchSelection c)
  | selError (m f l : Bool) (s : State) (h : select s.lenVal = none) :
      Ran p (.sel m f l) s (s.raiseUnsupportedLength s.len)
  | ini (m f l : Bool) (s : State) (k : Fin 6) (h : selIndex s.sel = some k) :
      Ran p (.ini m f l) s (s.initDigest p.ptab k)
  | abs1 (f : Bool) (s : State) (k : Fin 6) (h : selIndex s.sel = some k)
      (hi : s.idx.toNat < s.nbytes.toNat) :
      Ran p (.abs1 f) s (s.absorbed (mix p.ptab k false s.digest.toNat (s.memRead s.idx.toNat).toNat))
  | abs1a (f : Bool) (s : State) (k : Fin 6) (h : selIndex s.sel = some k)
      (hi : s.idx.toNat < s.nbytes.toNat) :
      Ran p (.abs1a f) s (s.absorbed (mix p.ptab k true s.digest.toNat (s.memRead s.idx.toNat).toNat))
  | absx (m f : Bool) (s : State) : Ran p (.absx m f) s s.leaveLoop
  | fld (m f l : Bool) (s : State) (k : Fin 6) (h : selIndex s.sel = some k) (hd : foldDomain k s.lenVal) :
      Ran p (.fld m f l) s s.foldDigest
  | emt (m f l : Bool) (s : State) : Ran p (.emt m f l) s (s.emit p.serMode)

/-- The list is exact: an instruction answers a next state just where `Ran` says. -/
theorem execWith_next_iff (p : Config.Params) (i : Instr) (s t : State) :
    execWith p i s = .next t ↔ Ran p i s t := by
  constructor
  · intro h
    cases i <;> simp only [execWith] at h
    case fnv1 len => cases h; exact .fnv1 len s
    case fnv1a len => cases h; exact .fnv1a len s
    case idle m f l => cases h; exact .idle m f l s
    case done m f l => cases h; exact .done m f l s
    case error m f l => cases h; exact .error m f l s
    case sel m f l =>
      unfold execSel at h
      split at h
      · rename_i c hc; cases h; exact .sel m f l s c hc
      · rename_i hc; cases h; exact .selError m f l s hc
    case ini m f l =>
      unfold execIniWith at h
      split at h
      · cases h
      · rename_i k hk; cases h; exact .ini m f l s k hk
    case abs1 f =>
      obtain ⟨k, hk, hi, rfl⟩ := (absorb_next_iff _ s t).mp h
      exact .abs1 f s k hk hi
    case abs1a f =>
      obtain ⟨k, hk, hi, rfl⟩ := (absorb_next_iff _ s t).mp h
      exact .abs1a f s k hk hi
    case absx m f => cases h; exact .absx m f s
    case fld m f l =>
      unfold execFld at h
      split at h
      · cases h
      · rename_i k hk
        split_ifs at h with hd
        cases h; exact .fld m f l s k hk hd
    case emt m f l => cases h; exact .emt m f l s
  · intro h
    cases h with
    | fnv1 | fnv1a | idle | done | error | absx | emt => rfl
    | sel _ _ _ _ c h => simp [execWith, execSel, h]
    | selError _ _ _ _ h => simp [execWith, execSel, h]
    | ini _ _ _ _ k h => simp [execWith, execIniWith, h]
    | abs1 _ _ k h hi =>
      exact (absorb_next_iff (fun k d b => xorb (mulp p.ptab k d) b) s _).mpr ⟨k, h, hi, rfl⟩
    | abs1a _ _ k h hi =>
      exact (absorb_next_iff (fun k d b => mulp p.ptab k (xorb d b)) s _).mpr ⟨k, h, hi, rfl⟩
    | fld _ _ _ _ k h hd => simp [execWith, execFld, h, hd]

theorem exec_next_iff (i : Instr) (s t : State) : exec i s = .next t ↔ Ran params i s t := by
  rw [← execWith_params, execWith_next_iff]

end Sys2Proof.Machine
end

