-- ==== Sys2Proof/Laws/Memory.lean ====
section
/-! SUPPORT. The laws of space M and of the output buffer: a read after a write, the canonical form, the
message as a list of bytes, and what consecutive writes into OBUF leave. -/

namespace Sys2Proof.Machine

open Sys2Proof

@[simp] theorem Memory.read_write_same (m : Memory) (i : Nat) (b : Byte) :
    Memory.read (Memory.write m i b) i = some b := by
  induction m with
  | nil => simp [Memory.write, Memory.read]
  | cons c m ih =>
    obtain ⟨a, v⟩ := c
    simp only [Memory.write]
    split_ifs with h1 h2
    · simp [Memory.read]
    · simp [Memory.read]
    · simp [Memory.read, h2, ih]

theorem Memory.read_write_other (m : Memory) {i j : Nat} (b : Byte) (h : j ≠ i) :
    Memory.read (Memory.write m i b) j = Memory.read m j := by
  induction m with
  | nil => simp [Memory.write, Memory.read, h.symm]
  | cons c m ih =>
    obtain ⟨a, v⟩ := c
    simp only [Memory.write]
    split_ifs with h1 h2
    · simp [Memory.read, h.symm]
    · subst h2; simp [Memory.read, h.symm]
    · simp [Memory.read, ih]

theorem Memory.byte_write_same (m : Memory) (i : Nat) (b : Byte) :
    Memory.byte (Memory.write m i b) i = b := by simp [Memory.byte]

theorem Memory.byte_write_other (m : Memory) {i j : Nat} (b : Byte) (h : j ≠ i) :
    Memory.byte (Memory.write m i b) j = Memory.byte m j := by
  simp [Memory.byte, Memory.read_write_other m b h]

theorem Memory.risingFrom_write (m : Memory) (lo i : Nat) (b : Byte) (hlo : lo ≤ i)
    (h : Memory.risingFrom lo m = true) : Memory.risingFrom lo (Memory.write m i b) = true := by
  induction m generalizing lo with
  | nil => simp [Memory.write, Memory.risingFrom, hlo]
  | cons c m ih =>
    obtain ⟨a, v⟩ := c
    simp only [Memory.risingFrom, Bool.and_eq_true, decide_eq_true_eq] at h
    simp only [Memory.write]
    split_ifs with h1 h2
    · simp only [Memory.risingFrom, Bool.and_eq_true, decide_eq_true_eq]
      exact ⟨hlo, by omega, h.2⟩
    · subst h2; simpa [Memory.risingFrom] using ⟨hlo, h.2⟩
    · simp only [Memory.risingFrom, Bool.and_eq_true, decide_eq_true_eq]
      exact ⟨h.1, ih (a + 1) (by omega) h.2⟩

theorem Memory.all_write (m : Memory) (i : Nat) (b : Byte) (hi : i < 2 ^ 32)
    (h : (m.all fun c => decide (c.1 < 2 ^ 32)) = true) :
    ((Memory.write m i b).all fun c => decide (c.1 < 2 ^ 32)) = true := by
  induction m with
  | nil => simpa [Memory.write] using hi
  | cons c m ih =>
    obtain ⟨a, v⟩ := c
    simp only [List.all_cons, Bool.and_eq_true, decide_eq_true_eq] at h
    simp only [Memory.write]
    split_ifs
    · simp only [List.all_cons, Bool.and_eq_true, decide_eq_true_eq]; exact ⟨hi, h⟩
    · simp only [List.all_cons, Bool.and_eq_true, decide_eq_true_eq]; exact ⟨hi, h.2⟩
    · simp only [List.all_cons, Bool.and_eq_true, decide_eq_true_eq]; exact ⟨h.1, ih h.2⟩

/-- Every write to M keeps the canonical form; reads change nothing, so no other operation can break it. -/
theorem Memory.wf_write (m : Memory) (i : BitVec 32) (b : Byte) (h : Memory.wf m = true) :
    Memory.wf (Memory.write m i.toNat b) = true := by
  simp only [Memory.wf, Bool.and_eq_true] at h ⊢
  exact ⟨Memory.risingFrom_write m 0 _ b (Nat.zero_le _) h.1, Memory.all_write m _ b i.isLt h.2⟩

theorem Memory.reset_wf : Memory.wf State.reset.mem = true := rfl

@[simp] theorem Memory.message_length (m : Memory) (n : Nat) : (Memory.message m n).length = n := by
  simp [Memory.message]

@[simp] theorem Memory.message_zero (m : Memory) : Memory.message m 0 = [] := rfl

theorem Memory.message_succ (m : Memory) (n : Nat) :
    Memory.message m (n + 1) = Memory.message m n ++ [Memory.byte m n] := by
  simp [Memory.message, List.range_succ]

theorem Memory.message_congr (m m' : Memory) (n : Nat)
    (h : ∀ i, i < n → Memory.byte m i = Memory.byte m' i) : Memory.message m n = Memory.message m' n :=
  List.map_congr_left fun i hi => h i (List.mem_range.mp hi)

/-- Consecutive writes into OBUF: the bytes written where they were, everything else as it was. -/
theorem obufWriteAll_getElem (bs : List Byte) (o : Vector Byte 129) (i j : Nat) (hj : j < 129) :
    (obufWriteAll o i bs)[j] = if i ≤ j ∧ j < i + bs.length then bs.getD (j - i) 0 else o[j] := by
  induction bs generalizing o i with
  | nil => simp [obufWriteAll]
  | cons b bs ih =>
    rw [obufWriteAll, ih, obufWrite, Vector.getElem_setIfInBounds]
    · simp only [List.length_cons]
      by_cases h1 : i = j
      · subst h1; simp
      · by_cases h2 : i + 1 ≤ j ∧ j < i + 1 + bs.length
        · rw [if_pos h2, if_pos (by omega), show j - i = (j - (i + 1)) + 1 by omega]
          simp
        · rw [if_neg h2, if_neg h1, if_neg (by omega)]

theorem obufByte_of_lt (o : Vector Byte 129) {i : Nat} (h : i < 129) : obufByte o i = o[i] := by
  simp [obufByte, h]

end Sys2Proof.Machine
end

