-- ==== Sys2Proof/Laws/PerInstr.lean ====
section
/-! SUPPORT. Statements about every instruction as syntax, one lemma per constructor. The family `TableRow`:
the word the encoder gives an instruction lies in the row of spec/opcode_table.json that has the instruction's
mnemonic, that is, `word and mask = match`, and in no row before it. -/

namespace Sys2Proof.Laws.TableRow

open Sys2Proof

/-- The first row of the operation map that covers the instruction's word has the instruction's mnemonic. -/
def Statement (i : Instr) : Prop :=
  (opTable.find? fun r => r.covers (encode i)).map OpRow.mnemonic = some i.mnemonic

theorem cmdBits_and_mask (mbm : Bool) (len : BitVec 16) :
    (cmdBits mbm len).toNat &&& 0x10000 = if mbm then 0x10000 else 0 := by
  rw [show 0x10000 = 2 ^ 16 from rfl, Nat.and_two_pow, BitVec.testBit_toNat]
  have h : (cmdBits mbm len).getLsbD 16 = mbm := by
    show (BitVec.ofBool mbm ++ len).getLsbD 16 = mbm
    rw [BitVec.getLsbD_append]
    simp
  rw [h]
  cases mbm <;> rfl

theorem fnv1 (len : BitVec 16) : Statement (.fnv1 len) := by
  have h := cmdBits_and_mask false len
  simp [Statement, opTable, OpRow.covers, encode, CodeWord.format, CodeWord.toNat, Instr.mnemonic, h]

theorem fnv1a (len : BitVec 16) : Statement (.fnv1a len) := by
  have h := cmdBits_and_mask true len
  simp [Statement, opTable, OpRow.covers, encode, CodeWord.format, CodeWord.toNat, Instr.mnemonic, h]

theorem idle (mbm fold last : Bool) : Statement (.idle mbm fold last) := by
  revert mbm fold last; unfold Statement; decide

theorem sel (mbm fold last : Bool) : Statement (.sel mbm fold last) := by
  revert mbm fold last; unfold Statement; decide

theorem ini (mbm fold last : Bool) : Statement (.ini mbm fold last) := by
  revert mbm fold last; unfold Statement; decide

theorem abs1 (fold : Bool) : Statement (.abs1 fold) := by
  revert fold; unfold Statement; decide

theorem abs1a (fold : Bool) : Statement (.abs1a fold) := by
  revert fold; unfold Statement; decide

theorem absx (mbm fold : Bool) : Statement (.absx mbm fold) := by
  revert mbm fold; unfold Statement; decide

theorem fld (mbm fold last : Bool) : Statement (.fld mbm fold last) := by
  revert mbm fold last; unfold Statement; decide

theorem emt (mbm fold last : Bool) : Statement (.emt mbm fold last) := by
  revert mbm fold last; unfold Statement; decide

theorem done (mbm fold last : Bool) : Statement (.done mbm fold last) := by
  revert mbm fold last; unfold Statement; decide

theorem error (mbm fold last : Bool) : Statement (.error mbm fold last) := by
  revert mbm fold last; unfold Statement; decide

end Sys2Proof.Laws.TableRow
end

