-- ==== Sys2Proof/Laws/Step.lean ====
section
/-! SUPPORT. What a step can do, said once: which word comes next, and the cases of a host turn. -/

namespace Sys2Proof.Machine

open Sys2Proof

@[simp] theorem Phase.ofCode_code (p : Phase) : Phase.ofCode p.code = p := by cases p <;> rfl

theorem nextWord_of_busy {s : State} (h : s.busy = true) : s.nextWord = .cw s.controlWord := by
  unfold State.nextWord
  cases s.cmd <;> simp [State.cmdReady, h]

theorem nextWord_of_offer {s : State} {w : BitVec 17} (h : s.busy = false) (hw : s.cmd = some w) :
    s.nextWord = .cmd w := by simp [State.nextWord, State.cmdReady, h, hw]

theorem nextWord_of_none {s : State} (h : s.cmd = none) : s.nextWord = .cw s.controlWord := by
  simp [State.nextWord, h]

/-- The control word's fields are the registers it is made of. -/
theorem decodeCw_cwBits (p : Phase) (m f l : Bool) : decodeCw (cwBits p m f l) =
    match p with
    | .idle => .idle m f l
    | .select => .sel m f l
    | .init => .ini m f l
    | .absorb => if l then .absx m f else if m then .abs1a f else .abs1 f
    | .fold => .fld m f l
    | .emit => .emt m f l
    | .done => .done m f l
    | .error => .error m f l := by
  cases p <;> cases m <;> cases f <;> cases l <;> rfl

/-- `step` is the step at the parameters this model takes. -/
theorem stepWith_params (s : State) : stepWith params s = step s := by
  unfold stepWith
  rw [execWith_params_eq]
  rfl

/-- Everything a turn can do, whatever the instructions mean: the engine's turn, or one of the host's moves. -/
theorem turnBy_cases {ex : Meaning} {s t : State} (h : turnBy ex s = .next t) :
    (s.script = [] ∧ engineTurnBy ex s = .next t) ∨
      ∃ m ms, s.script = m :: ms ∧ hostTurnBy ex m (s.withScript ms) = .next t := by
  unfold turnBy at h
  split at h
  · exact .inl ⟨‹_›, h⟩
  · exact .inr ⟨_, _, ‹_›, h⟩

/-- Everything a step can do. -/
theorem step_cases {s t : State} (h : step s = .next t) :
    (s.script = [] ∧ engineTurn s = .next t) ∨
      ∃ m ms, s.script = m :: ms ∧ hostTurn m (s.withScript ms) = .next t := turnBy_cases h

/-- Everything a host move can do, whatever the instructions mean. -/
theorem hostTurnBy_cases {ex : Meaning} {m : HostMove} {s t : State} (h : hostTurnBy ex m s = .next t) :
    (m = .pass ∧ engineTurnBy ex s = .next t) ∨
      (m = .wait ∧ s.busy = true ∧
        engineTurnBy ex ((s.hostRead 2).withScript (.wait :: s.script)) = .next t) ∨
      (m = .wait ∧ s.busy = false ∧ t = s.hostRead 2) ∨
      (∃ i b, m = .poke i b ∧ t = s.poke i b) ∨
      (∃ v, m = .write 0 v ∧ ex (decodeCmd (v.setWidth 17)) s = .next t) ∨
      (∃ v, m = .write 1 v ∧ t = s.writeMsgLen v) ∨
      (∃ n v, m = .write n v ∧ 2 ≤ n ∧ t = s) ∨
      (∃ n, m = .read n ∧ t = s.hostRead n) ∨
      (m = .withdraw ∧ t = s.withdraw) ∨ (m = .reset ∧ t = s.resetEvent) := by
  cases m with
  | pass => exact .inl ⟨rfl, h⟩
  | wait =>
    simp only [hostTurnBy] at h
    split_ifs at h with hb
    · exact .inr (.inl ⟨rfl, hb, h⟩)
    · cases h; exact .inr (.inr (.inl ⟨rfl, by simpa using hb, rfl⟩))
  | poke i b => cases h; exact .inr (.inr (.inr (.inl ⟨i, b, rfl, rfl⟩)))
  | write n v =>
    simp only [hostTurnBy, hostWriteBy] at h
    split_ifs at h with h0 h1
    · subst h0; exact .inr (.inr (.inr (.inr (.inl ⟨v, rfl, h⟩))))
    · subst h1; cases h; exact .inr (.inr (.inr (.inr (.inr (.inl ⟨v, rfl, rfl⟩)))))
    · cases h
      exact .inr (.inr (.inr (.inr (.inr (.inr (.inl ⟨n, v, rfl, by omega, rfl⟩))))))
  | read n => cases h; exact .inr (.inr (.inr (.inr (.inr (.inr (.inr (.inl ⟨n, rfl, rfl⟩)))))))
  | withdraw => cases h; exact .inr (.inr (.inr (.inr (.inr (.inr (.inr (.inr (.inl ⟨rfl, rfl⟩))))))))
  | reset => cases h; exact .inr (.inr (.inr (.inr (.inr (.inr (.inr (.inr (.inr ⟨rfl, rfl⟩))))))))

/-- Everything a host move can do. -/
theorem hostTurn_cases {m : HostMove} {s t : State} (h : hostTurn m s = .next t) :
    (m = .pass ∧ engineTurn s = .next t) ∨
      (m = .wait ∧ s.busy = true ∧
        engineTurn ((s.hostRead 2).withScript (.wait :: s.script)) = .next t) ∨
      (m = .wait ∧ s.busy = false ∧ t = s.hostRead 2) ∨
      (∃ i b, m = .poke i b ∧ t = s.poke i b) ∨
      (∃ v, m = .write 0 v ∧ exec (decodeCmd (v.setWidth 17)) s = .next t) ∨
      (∃ v, m = .write 1 v ∧ t = s.writeMsgLen v) ∨
      (∃ n v, m = .write n v ∧ 2 ≤ n ∧ t = s) ∨
      (∃ n, m = .read n ∧ t = s.hostRead n) ∨
      (m = .withdraw ∧ t = s.withdraw) ∨ (m = .reset ∧ t = s.resetEvent) := hostTurnBy_cases h

/-- A command word is one of the two commands, with its own bits as operands. -/
theorem execWith_decodeCmd (p : Config.Params) (w : BitVec 17) (s : State) :
    execWith p (decodeCmd w) s = .next (s.start (w.getLsbD 16) (w.extractLsb' 0 16)) := by
  unfold decodeCmd
  split_ifs with h
  · rw [h]; rfl
  · rw [Bool.not_eq_true] at h; rw [h]; rfl

theorem exec_decodeCmd (w : BitVec 17) (s : State) :
    exec (decodeCmd w) s = .next (s.start (w.getLsbD 16) (w.extractLsb' 0 16)) := by
  rw [← execWith_params, execWith_decodeCmd]

/-- Every next state an engine turn can answer at the parameters `p`, by the phase it is taken in. -/
inductive Turned (p : Config.Params) (s : State) : State → Prop where
  | start (w : BitVec 17) (hb : s.busy = false) (hc : s.cmd = some w) :
      Turned p s (s.startTransfer (w.getLsbD 16) (w.extractLsb' 0 16))
  | rest (hb : s.busy = false) (hc : s.cmd = none) : Turned p s s
  | sel (hp : s.phase = .select) (c : Selection) (h : select s.lenVal = some c) :
      Turned p s (s.latchSelection c)
  | selError (hp : s.phase = .select) (h : select s.lenVal = none) :
      Turned p s (s.raiseUnsupportedLength s.len)
  | ini (hp : s.phase = .init) (k : Fin 6) (h : selIndex s.sel = some k) : Turned p s (s.initDigest p.ptab k)
  | abs (hp : s.phase = .absorb) (hne : s.idx ≠ s.nbytes) (hlt : s.idx.toNat < s.nbytes.toNat) (k : Fin 6)
      (h : selIndex s.sel = some k) :
      Turned p s (s.absorbed (mix p.ptab k s.mbm s.digest.toNat (s.memRead s.idx.toNat).toNat))
  | absx (hp : s.phase = .absorb) (he : s.idx = s.nbytes) : Turned p s s.leaveLoop
  | fld (hp : s.phase = .fold) (k : Fin 6) (h : selIndex s.sel = some k) (hd : foldDomain k s.lenVal) :
      Turned p s s.foldDigest
  | emt (hp : s.phase = .emit) : Turned p s (s.emit p.serMode)

theorem busy_of_phase {s : State} {p : Phase} (hp : s.phase = p) : s.busy = phaseBusy p := by
  simp [State.busy, hp]

/-- While BUSY an engine turn is the micro-operation of the phase. -/
theorem engineTurnBy_of_busy (ex : Meaning) {s : State} (hb : s.busy = true) :
    engineTurnBy ex s = ex (decodeCw (cwBits s.phase s.mbm s.fold s.last)) s := by
  unfold engineTurnBy
  rw [nextWord_of_busy hb]
  rfl

/-- The list is exact. -/
theorem engineTurnBy_next_iff (p : Config.Params) (s t : State) :
    engineTurnBy (execWith p) s = .next t ↔ Turned p s t := by
  by_cases hb : s.busy = true
  · rw [engineTurnBy_of_busy _ hb, execWith_next_iff, decodeCw_cwBits]
    constructor
    · intro hr
      cases hp : s.phase <;> simp only [hp] at hr
      case idle | done | error => simp [busy_of_phase hp, phaseBusy] at hb
      case select =>
        cases hr with
        | sel _ _ _ _ c h => exact .sel hp c h
        | selError _ _ _ _ h => exact .selError hp h
      case init => cases hr with | ini _ _ _ _ k h => exact .ini hp k h
      case absorb =>
        by_cases hl : s.last = true
        · simp only [hl, if_true] at hr
          cases hr
          exact .absx hp (by simpa [State.last] using hl)
        · have hne : s.idx ≠ s.nbytes := by simpa [State.last] using hl
          simp only [hl] at hr
          cases hm : s.mbm <;> simp only [hm] at hr
          · cases hr with
            | abs1 _ _ k h hi => have := @Turned.abs p s hp hne hi k h; rwa [hm] at this
          · cases hr with
            | abs1a _ _ k h hi => have := @Turned.abs p s hp hne hi k h; rwa [hm] at this
      case fold => cases hr with | fld _ _ _ _ k h hd => exact .fld hp k h hd
      case emit => cases hr; exact .emt hp
    · intro h
      cases h with
      | start w hb' hc => rw [hb] at hb'; cases hb'
      | rest hb' hc => rw [hb] at hb'; cases hb'
      | sel hp c h => rw [hp]; exact .sel _ _ _ s c h
      | selError hp h => rw [hp]; exact .selError _ _ _ s h
      | ini hp k h => rw [hp]; exact .ini _ _ _ s k h
      | abs hp hne hlt k h =>
        have hl : s.last = false := by simpa [State.last] using hne
        simp only [hp, hl]
        cases s.mbm
        · exact .abs1 _ s k h hlt
        · exact .abs1a _ s k h hlt
      | absx hp he =>
        have hl : s.last = true := by simpa [State.last] using he
        simp only [hp, hl]
        exact .absx _ _ s
      | fld hp k h hd => rw [hp]; exact .fld _ _ _ s k h hd
      | emt hp => rw [hp]; exact .emt _ _ _ s
  · have hb : s.busy = false := by simpa using hb
    cases hc : s.cmd with
    | some w =>
      unfold engineTurnBy
      rw [nextWord_of_offer hb hc, decode, execWith_decodeCmd, State.start_of_ready hb]
      constructor
      · intro h; cases h; exact .start w hb hc
      · intro h
        cases h with
        | start w' _ hc' => rw [hc] at hc'; cases hc'; rfl
        | rest _ hc' => rw [hc] at hc'; cases hc'
        | sel hp | selError hp | ini hp | abs hp | absx hp | fld hp | emt hp =>
          simp [busy_of_phase hp, phaseBusy] at hb
    | none =>
      have he : engineTurnBy (execWith p) s = .next s := by
        unfold engineTurnBy
        rw [nextWord_of_none hc, decode, State.controlWord, decodeCw_cwBits]
        cases hp : s.phase <;> first | rfl | simp [busy_of_phase hp, phaseBusy] at hb
      rw [he]
      constructor
      · intro h; cases h; exact .rest hb hc
      · intro h
        cases h with
        | start w' _ hc' => rw [hc] at hc'; cases hc'
        | rest => rfl
        | sel hp | selError hp | ini hp | abs hp | absx hp | fld hp | emt hp =>
          simp [busy_of_phase hp, phaseBusy] at hb

theorem engineTurn_next_iff (s t : State) : engineTurn s = .next t ↔ Turned params s t := by
  rw [← engineTurnBy_next_iff, execWith_params_eq]
  rfl

/-- While BUSY an engine turn is the micro-operation of the phase. -/
theorem engineTurn_of_busy {s : State} (hb : s.busy = true) :
    engineTurn s = exec (decodeCw (cwBits s.phase s.mbm s.fold s.last)) s := engineTurnBy_of_busy exec hb

end Sys2Proof.Machine
end

