-- ==== Sys2Proof/Tests/Slice0.lean ====
section
/-! SUPPORT. The model's own tests. Expected results are the spec's: the rule or the section of
95_test_vectors.md stands beside each. The last part shows, for every statement that has hypotheses, a state and
operands that meet them all. -/

namespace Sys2Proof.Tests

open Sys2Proof Sys2Proof.Machine

/-- A field of the next state an outcome answers. -/
def after {α : Type} (f : State → α) : Host.Outcome State Fault Refusal → Option α
  | .next t => some (f t)
  | _ => none

/-! ### Well-formedness: the table is accepted, and each check refuses a table that breaks it -/

theorem test_ptab_wellFormed : Config.Ptab.wellFormed ptab = true := by decide +kernel

theorem test_wrong_size_refused :
    Config.Ptab.wellFormed (ptab.set 1 { size := 32, basis := 1, prime := 1 }) = false := by decide +kernel

theorem test_wide_basis_refused :
    Config.Ptab.wellFormed (ptab.set 0 { size := 32, basis := 2 ^ 32, prime := 1 }) = false := by decide +kernel

theorem test_wide_prime_refused :
    Config.Ptab.wellFormed (ptab.set 0 { size := 32, basis := 1, prime := 2 ^ 32 }) = false := by decide +kernel

theorem test_commands_wellFormed : (Instr.fnv1 15).wellFormed = true := rfl

/-! ### Decoding: words written out from 30_encoding.md R90 and R93 -/

theorem test_decode_commands :
    decodeTableWord 24 0b0_0000_0000_0001_0011 = some (.fnv1 19) ∧
    decodeTableWord 24 0b1_0000_0100_0000_0000 = some (.fnv1a 1024) := by decide

theorem test_decode_resting :
    decodeTableWord 8 0b000_1_0_1 = some (.idle true false true) ∧
    decodeTableWord 8 0b110_0_1_0 = some (.done false true false) ∧
    decodeTableWord 8 0b111_1_1_1 = some (.error true true true) := by decide

theorem test_decode_select_init :
    decodeTableWord 8 0b001_0_0_1 = some (.sel false false true) ∧
    decodeTableWord 8 0b010_1_0_0 = some (.ini true false false) := by decide

theorem test_decode_absorb :
    decodeTableWord 8 0b011_0_1_0 = some (.abs1 true) ∧ decodeTableWord 8 0b011_1_0_0 = some (.abs1a false) ∧
    decodeTableWord 8 0b011_0_0_1 = some (.absx false false) ∧
    decodeTableWord 8 0b011_1_1_1 = some (.absx true true) := by decide

theorem test_decode_fold_emit :
    decodeTableWord 8 0b100_1_1_0 = some (.fld true true false) ∧
    decodeTableWord 8 0b101_0_1_1 = some (.emt false true true) := by decide

/-- R90: bits above bit 16 of a wider write are ignored. -/
theorem test_decode_ignores_high_bits : decodeBytes [0x20, 0x00, 0xFE, 0xFF] = .ok (.fnv1 32) := by decide

theorem test_decode_refusals :
    decodeBytes [] = .error .empty ∧ decodeBytes [0x40] = .error .controlWordTooWide ∧
    decodeBytes [0x20, 0x00] = .error .commandTooShort := by decide

/-! ### The pure functions: 95_test_vectors.md sections 2 to 5 -/

theorem test_select :
    (select 16).map (fun c => (c.k.val, c.size, c.foldNeeded)) = some (0, 32, true) ∧
    (select 32).map (fun c => (c.k.val, c.size, c.foldNeeded)) = some (0, 32, false) ∧
    (select 33).map (fun c => (c.k.val, c.size, c.foldNeeded)) = some (1, 64, true) ∧
    (select 160).map (fun c => (c.k.val, c.size, c.foldNeeded)) = some (3, 256, true) ∧
    (select 1023).map (fun c => (c.k.val, c.size, c.foldNeeded)) = some (5, 1024, true) ∧
    (select 1024).map (fun c => (c.k.val, c.size, c.foldNeeded)) = some (5, 1024, false) ∧
    select 15 = none ∧ select 1025 = none ∧ select 0 = none ∧ select 65535 = none := by decide

theorem test_mulp :
    mulp ptab 0 0x811c9dc5 = 0x050c5d1f ∧ mulp ptab 0 0 = 0 ∧ mulp ptab 0 1 = 0x01000193 ∧
    mulp ptab 0 0x80000000 = 0x80000000 ∧ mulp ptab 1 0xcbf29ce484222325 = 0xaf63bd4c8601b7df := by
  decide +kernel

theorem test_xorb :
    xorb 0x811c9dc5 0x61 = 0x811c9da4 ∧ xorb 0x811c9dc5 0xff = 0x811c9d3a ∧
    xorb 0x050c5d1f 0xff = 0x050c5de0 ∧ xorb 0x050c5d1f 0xffffffff = 0x050c5de0 := by decide

theorem test_fold :
    xorFold 0x8d968dbd 19 = 0x69c0f ∧ xorFold 0xf4a8096d 19 = 0x17f8 ∧ xorFold 0x811c9dc5 16 = 0x1cd9 ∧
    xorFold 0x811c9dc5 31 = 0x11c9dc4 ∧ xorFold 0xffffffff 16 = 0 ∧ xorFold 0x80000000 31 = 1 := by
  decide +kernel

theorem test_ser :
    ser .signedMin 0 = [0] ∧ ser .signedMin 0x7f = [0x7f] ∧ ser .signedMin 0x80 = [0, 0x80] ∧
    ser .signedMin 0x100 = [1, 0] ∧ ser .signedMin 0xffff = [0, 0xff, 0xff] ∧
    ser .signedMin 0x69c0f = [0x06, 0x9c, 0x0f] ∧ ser .unsignedMin 0 = [0] ∧
    ser .unsignedMin 0x80 = [0x80] ∧ ser .unsignedMin 0x17f8 = [0x17, 0xf8] ∧
    (ser .signedMin (2 ^ 1024 - 1)).length = 129 ∧ (ser .signedMin (2 ^ 1023 - 1)).length = 128 := by
  decide +kernel

/-- The limb trace of 44_bigint_multiplier.md R160. -/
theorem test_mw_mul :
    mwMul [0x84222325#32, 0xcbf29ce4#32] [0x000001b3#32, 0x00000100#32] = [0x8601b7df#32, 0xaf63bd4c#32] := by
  decide

/-- Section 4, 'Across limbs'. -/
theorem test_fold_limbs :
    foldLimbs [0x8601b7be#32, 0xaf63bd4c#32] 33 = [0xd1b06918#32, 0#32] := by decide

theorem test_xorb_limbs : xorbLimbs 0x61 [0x8601b7df#32, 0xaf63bd4c#32] = [0x8601b7be#32, 0xaf63bd4c#32] := by
  decide

/-- 10_state.md R41: the primes rebuilt. -/
theorem test_primes :
    ptab.toList.map Config.PtabEntry.prime =
      [2 ^ 24 + 2 ^ 8 + 0x93, 2 ^ 40 + 2 ^ 8 + 0xb3, 2 ^ 88 + 2 ^ 8 + 0x3b, 2 ^ 168 + 2 ^ 8 + 0x63,
        2 ^ 344 + 2 ^ 8 + 0x57, 2 ^ 680 + 2 ^ 8 + 0x8d] := by decide +kernel

/-- The 32 bytes of 10_state.md R42. -/
def chongo : List Byte :=
  [0x63, 0x68, 0x6f, 0x6e, 0x67, 0x6f, 0x20, 0x3c, 0x4c, 0x61, 0x6e, 0x64, 0x6f, 0x6e, 0x20, 0x43,
    0x75, 0x72, 0x74, 0x20, 0x4e, 0x6f, 0x6c, 0x6c, 0x3e, 0x20, 0x2f, 0x5c, 0x2e, 0x2e, 0x2f, 0x5c]

/-- 10_state.md R42: each basis is the FNV-1 accumulation of those bytes from digest 0. -/
theorem test_bases :
    ∀ k : Fin 6, chongo.foldl (fun d b => mix ptab k false d b.toNat) 0 = ptab[k].basis := by decide +kernel

/-- "asdfasdfasdfasdf" (95_test_vectors.md section 1). -/
def asdf : List Byte :=
  [0x61, 0x73, 0x64, 0x66, 0x61, 0x73, 0x64, 0x66, 0x61, 0x73, 0x64, 0x66, 0x61, 0x73, 0x64, 0x66]

/-- D0's own vectors S1 to S5; the bytes are those of section 6, V5 and V17. -/
theorem test_reference_vectors :
    resultValue ptab false asdf 32 = some 0x8d968dbd ∧
    resultValue ptab false asdf 64 = some 0x9699ecfed4303f9d ∧
    resultValue ptab false asdf 19 = some 0x69c0f ∧ resultValue ptab true asdf 32 = some 0xf4a8096d ∧
    resultValue ptab true asdf 19 = some 0x17f8 ∧
    fnvHash ptab .signedMin false asdf 32 = some [0, 0x8d, 0x96, 0x8d, 0xbd] ∧
    fnvHash ptab .signedMin true asdf 19 = some [0x17, 0xf8] ∧ resultValue ptab false asdf 15 = none := by
  decide +kernel

/-- Section 6, V9, V25 and V12: the sizes 128, 256 (folded to 160) and 512. -/
theorem test_derived_vectors :
    resultValue ptab false asdf 128 = some 0xb24f15c98fa3cdab34062052dd618045 ∧
    resultValue ptab true asdf 160 = some 0x9371ba3b198a71f5a8d4ca8eff21e27d69e0b6f2 ∧
    resultValue ptab false asdf 512 = some 0xe6976a11387e07a3b308581b3eb0cc4a1430124f02d52bceb7da26f14d3a4251df9a3485fe71fab8b81025e317c89e541276b9119be920b215025bcfffad7ae1 := by
  decide +kernel

/-- Section 6, V28: 1019 bits, size 1024. -/
theorem test_derived_vector_1019 :
    resultValue ptab true asdf 1019 = some 0x5ed8ba10097026e4bdf6ed8dff81d35e8cb50cdea1d312ed2f5e51dd1fd24bea2b76593d4bbe914b44e7500000000000000000000000000000000000000000000000000000000000000000014e0e64e8b1537e8b39bdf3c9cf101ec642a361bad21510f30a045752ac61445ef916b8c8b145ca2de98f5134e622fbdad50503d := by
  decide +kernel

/-- 00_scope.md R7: the constraints of the parameters' table. -/
theorem test_parameters :
    Config.nlimb * Config.limbW = Config.dw ∧ 32 % Config.limbW = 0 ∧ 11 ≤ Config.lenW ∧
    Config.dw / 8 + 1 ≤ Config.obufBytes ∧ Config.msgAddrW = 32 ∧ canonSize 5 = Config.dw := by decide

/-! ### One instruction each -/

/-- A ready engine, message "ab" in M. -/
def ready : State := { State.reset with mem := [(0, 0x61), (1, 0x62)], msgLen := 2 }

/-- An engine in ABSORB at size 32 with the basis in DIGEST, message "ab". -/
def absorbing : State :=
  { ready with phase := .absorb, len := 32, nbytes := 2, digest := 0x811c9dc5 }

/-- R170: NBYTES is MSG_LEN, MBM is bit 16, BUSY = 1. -/
theorem test_fnv1_start :
    after (fun t => (t.mbm, t.len, t.nbytes, t.phase)) (exec (.fnv1 32) { ready with mbm := true }) =
      some (false, 32, 2, .select) := by decide

theorem test_fnv1a_start :
    after (fun t => (t.mbm, t.len, t.nbytes, t.phase)) (exec (.fnv1a 19) { ready with phase := .error }) =
      some (true, 19, 2, .select) := by decide

/-- R173: a command offered while BUSY waits. -/
theorem test_fnv1a_waits :
    after (fun t => (t.cmd, t.mbm, t.phase)) (exec (.fnv1a 19) absorbing) =
      some (some 0x10013, false, .absorb) := by decide

/-- R111's worked example. -/
theorem test_sel_19 :
    after (fun t => (t.sel, t.fold, t.phase)) (exec (.sel false true true) { ready with len := 19, sel := 5 }) =
      some (0, true, .init) := by decide

/-- R112's worked example. -/
theorem test_sel_1025 :
    after (fun t => (t.errval, t.sel, t.phase)) (exec (.sel false true true) { ready with len := 1025, sel := 5 }) =
      some (0x0401, 5, .error) := by decide

/-- R124's worked example; the old DIGEST is gone. -/
theorem test_ini :
    after (fun t => (t.digest, t.idx, t.phase))
        (exec (.ini false false false) { ready with digest := BitVec.allOnes 1024, idx := 9 }) =
      some (0x811c9dc5, 0, .absorb) := by decide +kernel

/-- R125's worked example, both steps. -/
theorem test_abs1 :
    after (fun t => (t.digest, t.idx, t.phase)) (exec (.abs1 false) absorbing) =
      some (0x050c5d7e, 1, .absorb) ∧
    after (fun t => (t.digest, t.idx)) (exec (.abs1 false) { absorbing with digest := 0x050c5d7e, idx := 1 }) =
      some (0x70772d38, 2) := by decide +kernel

/-- R126's worked example, both steps. -/
theorem test_abs1a :
    after (fun t => (t.digest, t.idx, t.phase)) (exec (.abs1a true) absorbing) =
      some (0xe40c292c, 1, .absorb) ∧
    after (fun t => (t.digest, t.idx)) (exec (.abs1a true) { absorbing with digest := 0xe40c292c, idx := 1 }) =
      some (0x4d2505ca, 2) := by decide +kernel

/-- R127: the register FOLD decides, not the control word's bit. -/
theorem test_absx :
    after State.phase (exec (.absx true false) { absorbing with fold := true }) = some .fold ∧
    after State.phase (exec (.absx false true) { absorbing with fold := false }) = some .emit := by decide

/-- R143's worked example. -/
theorem test_fld :
    after (fun t => (t.digest, t.phase)) (exec (.fld false true true)
        { ready with len := 19, fold := true, digest := 0x8d968dbd }) = some (0x69c0f, .emit) := by
  decide +kernel

/-- R185's worked example; and DIGEST = 0x80 gives 00 80. -/
theorem test_emt :
    after (fun t => (t.olen, (List.range 3).map (obufByte t.obuf), t.phase))
        (exec (.emt false true true) { ready with digest := 0x69c0f }) =
      some (3, [0x06, 0x9c, 0x0f], .done) ∧
    after (fun t => (t.olen, (List.range 2).map (obufByte t.obuf)))
        (exec (.emt false true true) { ready with digest := 0x80 }) = some (2, [0, 0x80]) := by decide +kernel

/-- R38: the step reads the table it is given. The table here has BASIS[0] = 5 and PRIME[0] = 3. -/
def otherParams : Config.Params :=
  { ptab := ptab.set 0 { size := 32, basis := 5, prime := 3 }, serMode := .unsignedMin }

/-- R124, R125, R126 by hand at that table: 5; (5 * 3) xor 0x61 = 0x6e; (5 xor 0x61) * 3 = 0x12c. R189: 0x80 is the one
byte 80. -/
theorem test_other_params :
    otherParams.wellFormed = true ∧
    after State.digest (execWith otherParams (.ini false false false) ready) = some 5 ∧
    after State.digest (execWith otherParams (.abs1 false) { absorbing with digest := 5 }) = some 0x6e ∧
    after State.digest (execWith otherParams (.abs1a false) { absorbing with digest := 5 }) = some 0x12c ∧
    after State.digest (stepWith otherParams { ready with phase := .init }) = some 5 ∧
    after (fun t => (t.olen, obufByte t.obuf 0))
        (execWith otherParams (.emt false false true) { ready with digest := 0x80 }) = some (1, 0x80) := by
  decide +kernel

/-- R193. -/
theorem test_resting :
    after State.phase (exec (.idle false false false) ready) = some .idle ∧
    after State.errval (exec (.error false false false) { ready with phase := .error, errval := 15 }) =
      some 15 := by decide

/-! ### Steps and host moves -/

/-- R170, R93: a command offered to a resting engine is the next step; then SEL runs. -/
theorem test_step_start : after State.phase (step { ready with cmd := some 0x00020 }) = some .select := by decide

theorem test_step_sel :
    after (fun t => (t.phase, t.cmd)) (step { ready with phase := .select, len := 15, cmd := some 0x00020 }) =
      some (.error, some 0x00020) := by decide

/-- R33, R35: STATUS in DONE is DONE = 1, PHASE = 6. -/
theorem test_status_read :
    after State.rdata (step { ready with phase := .done, script := [.read 2] }) = some 0b110_010 := by decide

/-- R35: MBMSEL in DONE: SEL = 1, FOLD = 1, MBM = 1. -/
theorem test_mbmsel_read :
    after State.rdata (step { ready with phase := .done, sel := 1, fold := true, mbm := true, script := [.read 6] }) =
      some 0b001_1_1 := by decide

/-- R64: a write of the running message breaks the premise; beyond it, it does not. -/
theorem test_poke_busy :
    after State.stable (step { absorbing with script := [.poke 1 0] }) = some false ∧
    after State.stable (step { absorbing with script := [.poke 2 0] }) = some true ∧
    after State.mem (step { absorbing with script := [.poke 1 7] }) = some [(0, 0x61), (1, 7)] := by decide

/-- R98: the statements and their text (Program 2 of section 9). -/
theorem test_assemble :
    assemble [.msg [0x61, 0x62], .fnv1a 19, .wait] =
      some [.poke 0 0x61, .poke 1 0x62, .write 1 2, .write 0 0x10013, .wait] := by decide

/-- 92_eei_decisions.md D19: a message of 2^32 bytes or more is refused, not truncated. -/
theorem test_assemble_refuses (bs : List Byte) (h : 2 ^ 32 ≤ bs.length) : assemble [.bytes bs] = none := by
  have hb : AsmStmt.presentable (.bytes bs) = false := decide_eq_false (Nat.not_lt.mpr h)
  simp [assemble, hb]

/-- `FNV1A  19 ; x`, `.msg "a"`, `.bytes 80 0f`, `fnv1 65536`, `WAIT`. -/
theorem test_parse :
    parseLine [70, 78, 86, 49, 65, 32, 32, 49, 57, 32, 59, 120] = some [.fnv1a 19] ∧
    parseLine [46, 109, 115, 103, 32, 34, 97, 34] = some [.msg [0x61]] ∧
    parseLine [46, 98, 121, 116, 101, 115, 32, 56, 48, 32, 48, 102] = some [.bytes [0x80, 0x0f]] ∧
    parseLine [102, 110, 118, 49, 32, 54, 53, 53, 51, 54] = none ∧
    parseLine [87, 65, 73, 84] = some [.wait] ∧ parseLine [32, 59, 32] = some [] := by decide

/-- Every opcode-table row, placed after reset, runs. -/
theorem test_rows_run_after_reset :
    [(24, 0x00000), (24, 0x10000), (8, 0x00), (8, 0x08), (8, 0x10), (8, 0x18), (8, 0x1C), (8, 0x19), (8, 0x20),
      (8, 0x28), (8, 0x30), (8, 0x38)].map
        (fun w => (after State.phase (step (State.reset.withFetchWord w.1 w.2)))) =
      [some .select, some .select, some .idle, some .error, some .absorb, some .absorb, some .absorb,
        some .emit, some .emit, some .done, some .done, some .error] := by decide +kernel

/-! ### Witnesses: states and operands that meet a statement's hypotheses

Each is named after its statement; where a statement has several clauses, each clause has a part, at a boundary of
its range. -/

/-- A command word offered to the ready engine. -/
def offered (w : BitVec 17) : State := { ready with cmd := some w }

/-- An engine resting with the result 0x69c0f of a 19-bit request (95_test_vectors.md, Program 5). -/
def finished : State :=
  { ready with
    phase := .done, len := 19, fold := true, digest := 0x69c0f, nbytes := 2, idx := 2, olen := 3
    obuf := obufWriteAll (Vector.replicate 129 0) 0 [0x06, 0x9c, 0x0f] }

theorem witness_StepRunsDecodedWord :
    ready.script = [] ∧ ({ ready with script := [.pass] } : State).script = [.pass] ∧ absorbing.busy = true ∧
    ready.cmd = none ∧ (offered 0x1ffff).busy = false ∧ (offered 0x1ffff).cmd = some 0x1ffff := by decide

/-- For StartTransferOnlyWhenReady, CommandsLatchVariantAndLength: the three phases with BUSY = 0, and a BUSY
one in which the command is answered. -/
theorem witness_StartTransferOnlyWhenReady :
    ready.busy = false ∧ finished.busy = false ∧ ({ ready with phase := .error } : State).busy = false ∧
      absorbing.busy = true ∧ ∃ t, exec (decodeCmd 0x00020) absorbing = .next t :=
  ⟨by decide, by decide, by decide, by decide, _, rfl⟩

/-- For CommandWaitsWhileBusy, MsgLenIsSampledOnce: the first and the last BUSY phase. -/
theorem witness_CommandWaitsWhileBusy :
    ({ ready with phase := .select } : State).busy = true ∧ ({ ready with phase := .emit } : State).busy = true := by
  decide

/-- The engine steps while a command waits, and the host takes the command back. -/
theorem witness_CommandWaits_engineTurn :
    ({ absorbing with cmd := some 0x00020, script := [.withdraw] } : State).busy = true ∧
      ({ absorbing with cmd := some 0x00020, script := [.withdraw] } : State).script = [.withdraw] ∧
      ∃ t, engineTurn { absorbing with cmd := some 0x00020 } = .next t :=
  ⟨by decide, by decide, _, rfl⟩

theorem witness_RestingPhasesChangeNothing :
    finished.busy = false ∧ finished.cmd = none ∧ finished.script = [] := by decide

theorem witness_SelSelectsLeastCoveringSize :
    16 ≤ ({ ready with len := 16 } : State).len.toNat ∧ ({ ready with len := 16 } : State).len.toNat ≤ 1024 ∧
    16 ≤ ({ ready with len := 1024 } : State).len.toNat ∧
    ({ ready with len := 1024 } : State).len.toNat ≤ 1024 := by decide

theorem witness_SelRaisesUnsupportedLength :
    ({ ready with len := 15 } : State).len.toNat < 16 ∧ 1024 < ({ ready with len := 1025 } : State).len.toNat := by
  decide

theorem witness_ErrorOnlyFromUnsupportedLength :
    (∃ t, engineTurn { ready with phase := .select, len := 15 } = .next t ∧ t.phase = .error) ∧
      ({ ready with phase := .select, len := 16 } : State).phase = .select :=
  ⟨⟨_, rfl, rfl⟩, rfl⟩

theorem witness_SelectorComparatorForm : 16 ≤ 16 ∧ 16 ≤ 1024 ∧ 16 ≤ 1024 ∧ 1024 ≤ 1024 := by decide

theorem witness_SelectedSizeAtMostTwiceTheLength : (∃ c, select 16 = some c) ∧ ∃ c, select 17 = some c :=
  ⟨⟨_, rfl⟩, ⟨_, rfl⟩⟩

theorem witness_IniStartsAtBasis :
    absorbing.sel.toNat = (0 : Fin 6).val ∧ ({ absorbing with sel := 5 } : State).sel.toNat = (5 : Fin 6).val := by
  decide

/-- For Abs1MultipliesThenXors, Abs1aXorsThenMultiplies: the first and the last index of the longest message. -/
theorem witness_Abs1MultipliesThenXors :
    absorbing.sel.toNat = (0 : Fin 6).val ∧ absorbing.idx.toNat < absorbing.nbytes.toNat ∧
    absorbing.stable = true ∧
    ({ absorbing with idx := 0xFFFFFFFE, nbytes := 0xFFFFFFFF } : State).idx.toNat <
      ({ absorbing with idx := 0xFFFFFFFE, nbytes := 0xFFFFFFFF } : State).nbytes.toNat := by decide

theorem witness_AbsorbWithBrokenPremiseDrawsAByte :
    ({ absorbing with stable := false } : State).stable = false ∧
    ({ absorbing with stable := false } : State).sel.toNat = (0 : Fin 6).val ∧
    ({ absorbing with stable := false } : State).idx.toNat <
      ({ absorbing with stable := false } : State).nbytes.toNat := by decide

theorem witness_AbsxLeavesTheLoop :
    ({ absorbing with fold := true } : State).fold = true ∧ absorbing.fold = false := by decide

/-- For XorbChangesLowByteOnly, XorbOnLimbs: the narrowest digest and limb. -/
theorem witness_XorbChangesLowByteOnly : 8 ≤ 8 ∧ 255 < 2 ^ 8 := by decide

theorem witness_MultiplierValue :
    [0x84222325#32, 0xcbf29ce4#32].length = [0x000001b3#32, 0x00000100#32].length ∧
    0xffffffff < 2 ^ (32 <<< (0 : Fin 6).val) := by decide

theorem witness_ShiftAndAddMultiplier :
    ((5, 680, 0x8d) : Fin 6 × Nat × Nat) ∈
      ([(0, 24, 0x93), (1, 40, 0xb3), (2, 88, 0x3b), (3, 168, 0x63), (4, 344, 0x57),
        (5, 680, 0x8d)] : List (Fin 6 × Nat × Nat)) := by decide

theorem witness_FoldOnLimbs :
    0 < 33 ∧ 33 < 32 * [0x8601b7be#32, 0xaf63bd4c#32].length ∧
    63 < 32 * [0x8601b7be#32, 0xaf63bd4c#32].length := by decide

/-- The shortest and the longest folded request. -/
theorem witness_FldFoldsToLength :
    (0 < ({ ready with len := 16 } : State).len.toNat ∧
      ({ ready with len := 16 } : State).len.toNat < 32 <<< (0 : Fin 6).val) ∧
    ({ ready with len := 1023, sel := 5 } : State).sel.toNat = (5 : Fin 6).val ∧
    ({ ready with len := 1023, sel := 5 } : State).len.toNat < 32 <<< (5 : Fin 6).val := by decide

theorem witness_FoldOfHalves : 0xffffffff < 2 ^ 32 := by decide

theorem witness_ResultLengthBounds :
    (2 ^ 16 - 1 < 2 ^ 16 ∧ 16 % 8 = 0) ∧ (2 ^ 1023 < 2 ^ 1024 ∧ 1024 % 8 = 0) ∧ (0x69c0f < 2 ^ 19 ∧ 19 % 8 ≠ 0) := by
  decide +kernel

theorem witness_LongestOutputHasLeadingZeroBits :
    16 ≤ 19 ∧ 19 ≤ 1024 ∧ 0x69c0f < 2 ^ 19 ∧ 19 % 8 ≠ 0 ∧ serLen .signedMin 0x69c0f = (19 + 7) / 8 := by decide

theorem finished_selected : finished.Selected { k := 0, size := 32, foldNeeded := true } := by
  refine ⟨?_, ?_, ?_⟩ <;> decide

theorem finished_emitted : finished.Emitted := by
  unfold State.Emitted
  decide +kernel

theorem finished_inv : finished.Inv where
  memWf := by decide
  selected := fun _ => ⟨_, finished_selected⟩
  absorbing := fun h => by cases h
  folding := fun h => by cases h
  result := fun _ => by decide +kernel
  emitted := fun _ => finished_emitted
  refusedLen := fun h => by cases h

/-- The first byte from the end and the first of the buffer. -/
theorem witness_OutputBytesAreLimbBytes :
    finished.Inv ∧ finished.phase = .done ∧ 0 < 128 ∧ 0 < finished.olen.toNat ∧ 2 < finished.olen.toNat :=
  ⟨finished_inv, rfl, by decide, by decide, by decide⟩

theorem witness_StopsOutsideTheDomain :
    (({ absorbing with idx := 2 } : State).sel.toNat < 6 ∧
      ({ absorbing with idx := 2 } : State).nbytes.toNat ≤ ({ absorbing with idx := 2 } : State).idx.toNat) ∧
    6 ≤ ({ absorbing with sel := 6 } : State).sel.toNat ∧ 6 ≤ ({ absorbing with sel := 7 } : State).sel.toNat ∧
    ({ ready with len := 0 } : State).len.toNat = 0 ∧
    32 <<< (0 : Fin 6).val ≤ ({ ready with len := 32 } : State).len.toNat := by decide

/-- One state that runs for each guard of RegistersChangeOnlyByTheirWriters. -/
theorem witness_RegistersChangeOnlyByTheirWriters :
    (∃ t, exec (.emt false false true) absorbing = .next t) ∧ (∃ t, exec (.fnv1 32) absorbing = .next t) ∧
    ∃ t, exec (.sel false false true) absorbing = .next t :=
  ⟨⟨_, rfl⟩, ⟨_, rfl⟩, ⟨_, rfl⟩⟩

theorem witness_CommandRegistersConstantWhileBusy :
    absorbing.busy = true ∧ absorbing.script.head? ≠ some .reset ∧ ∃ t, step absorbing = .next t :=
  ⟨by decide, by decide, _, rfl⟩

/-- Each kind of step the statement tells apart completes somewhere: the engine's turn with no move pending, with
pass and with a wait while BUSY; a START taken and one that waits; reset; a wait that ends, a poke and a read in a phase
an engine turn would leave. -/
theorem witness_ControlTransfersAreTheTable :
    (∃ t, engineTurn absorbing = .next t) ∧ (∃ t, step absorbing = .next t) ∧
    (∃ t, step { absorbing with script := [.pass] } = .next t) ∧
    (absorbing.busy = true ∧ ∃ t, step { absorbing with script := [.wait] } = .next t) ∧
    (finished.busy = false ∧ ∃ t, step { finished with script := [.write 0 0x10013] } = .next t ∧
      t.phase = .select) ∧
    (∃ t, step { absorbing with script := [.write 0 0x10013] } = .next t ∧ t.phase = .absorb) ∧
    (∃ t, step { absorbing with script := [.reset] } = .next t) ∧
    (∃ t, step { finished with script := [.wait] } = .next t) ∧
    (∃ t, step { ready with phase := .emit, script := [.poke 0 1] } = .next t ∧ t.phase = .emit) ∧
    ∃ t, step { ready with phase := .emit, script := [.read 2] } = .next t ∧ t.phase = .emit :=
  ⟨⟨_, rfl⟩, ⟨_, rfl⟩, ⟨_, rfl⟩, ⟨by decide, _, rfl⟩, ⟨by decide, _, rfl, rfl⟩, ⟨_, rfl, rfl⟩, ⟨_, rfl⟩,
    ⟨_, rfl⟩, ⟨_, rfl, rfl⟩, _, rfl, rfl⟩

theorem absorbing_selected : absorbing.Selected { k := 0, size := 32, foldNeeded := false } := by
  refine ⟨?_, ?_, ?_⟩ <;> decide

theorem absorbing_inv : absorbing.Inv where
  memWf := by decide
  selected := fun _ => ⟨_, absorbing_selected⟩
  absorbing := fun _ => ⟨by decide, _, absorbing_selected, by decide +kernel⟩
  folding := fun h => by cases h
  result := fun h => by cases h <;> rename_i h <;> cases h
  emitted := fun h => by cases h
  refusedLen := fun h => by cases h

theorem absorbing_loopInv : absorbing.LoopInv where
  absorbing := fun _ _ k h => by
    have hk : k = 0 := (Option.some.inj (show some (0 : Fin 6) = some k from h)).symm
    subst hk
    decide +kernel
  folding := fun _ h => by cases h
  emitting := fun _ h => by cases h

/-- For StepKeepsInvariant, StepKeepsLoopInvariant, InvariantGivesProgress: in the loop and at the end. -/
theorem witness_StepKeepsInvariant :
    absorbing.Inv ∧ absorbing.LoopInv ∧ (∃ t, step absorbing = .next t) ∧ finished.Inv ∧
      ∃ t, step finished = .next t :=
  ⟨absorbing_inv, absorbing_loopInv, ⟨_, rfl⟩, finished_inv, _, rfl⟩

/-- For OperationTakesExactlyItsSteps, OperationComputesHash: an accepted and a refused length. -/
theorem witness_OperationComputesHash :
    ((offered 0x10013).busy = false ∧ (offered 0x10013).script = [] ∧ (offered 0x10013).cmd = some 0x10013) ∧
    ((offered 0x0000f).busy = false ∧ (offered 0x0000f).script = [] ∧ (offered 0x0000f).cmd = some 0x0000f) := by
  decide

/-- Two different pasts and the same command, message length and message. -/
theorem witness_OperationForgetsThePast :
    (offered 0x00020).busy = false ∧ ({ finished with cmd := some 0x00020 } : State).busy = false ∧
    (offered 0x00020).script = [] ∧ ({ finished with cmd := some 0x00020 } : State).script = [] ∧
    (offered 0x00020).cmd = some 0x00020 ∧ ({ finished with cmd := some 0x00020 } : State).cmd = some 0x00020 ∧
    (offered 0x00020).msgLen = ({ finished with cmd := some 0x00020 } : State).msgLen ∧
    ∀ i, i < (offered 0x00020).msgLen.toNat →
      Memory.byte (offered 0x00020).mem i = Memory.byte ({ finished with cmd := some 0x00020 } : State).mem i :=
  ⟨by decide, by decide, by decide, by decide, by decide, by decide, by decide, fun _ _ => rfl⟩

/-- M differs at the first index above the message only. -/
theorem witness_MemoryBeyondTheMessageIsIrrelevant :
    ∀ i, i < absorbing.nbytes.toNat →
      Memory.byte absorbing.mem i = Memory.byte (Memory.write absorbing.mem 2 0xff) i := by
  decide

theorem witness_HostReadsInTheirWindows :
    ({ ready with phase := .error } : State).phase = .error ∧ finished.phase = .done ∧ finished.phase ≠ .idle ∧
    0 < finished.olen.toNat ∧ finished.selectionValid = true ∧ finished.indexValid = true := by decide

/-- For the statements about one host move: HostReadChangesNoRegister, HostWritesByNumber,
HostPokeWritesOneByte, ResetEventIdles, WaitPollsUntilReady. -/
theorem witness_HostMoves :
    ({ finished with script := [.read 32] } : State).script = [.read 32] ∧
    ({ finished with script := [.write 0 0x10013] } : State).script = [.write 0 0x10013] ∧
    ({ finished with script := [.write 1 7] } : State).script = [.write 1 7] ∧
    ({ finished with script := [.write 2 7] } : State).script = [.write 2 7] ∧
    ({ absorbing with script := [.poke 1 7] } : State).script = [.poke 1 7] ∧
    ({ absorbing with script := [.reset] } : State).script = [.reset] ∧
    (({ absorbing with script := [.wait] } : State).script = [.wait] ∧ absorbing.busy = true) ∧
    (({ finished with script := [.wait] } : State).script = [.wait] ∧ finished.busy = false) := by decide

/-- The empty message and a message of two bytes, each with the first index above it. -/
theorem witness_PrepareFillsTheMessage :
    ([] : List Byte).length < 2 ^ 32 ∧ ({ ready with script := [.write 1 0] } : State).script = prepareMoves [] ++ [] ∧
    [0x61#8, 0x62#8].length < 2 ^ 32 ∧
    ({ ready with script := [.poke 0 0x61, .poke 1 0x62, .write 1 2, .pass] } : State).script =
      prepareMoves [0x61, 0x62] ++ [.pass] ∧ ([] : List Byte).length ≤ 0 ∧ [0x61#8, 0x62#8].length ≤ 2 := by decide

/-- The first and the last index of the table, the first and the last byte of a message, a host move, and a wait that
ends. -/
theorem witness_StepTakesTheTableAsParameter :
    absorbing.script = [] ∧ otherParams.wellFormed = true ∧ absorbing.sel.toNat = (0 : Fin 6).val ∧
    ({ absorbing with sel := 5 } : State).sel.toNat = (5 : Fin 6).val ∧ absorbing.stable = true ∧
    absorbing.idx.toNat < absorbing.nbytes.toNat ∧
    ({ absorbing with idx := 1 } : State).idx.toNat < ({ absorbing with idx := 1 } : State).nbytes.toNat ∧
    (Instr.sel false false false).mnemonic ∉ ["INI", "ABS1", "ABS1A", "EMT"] ∧
    ({ absorbing with script := [.read 2] } : State).script.head? = some (.read 2) ∧
    (({ finished with script := [.wait] } : State).script.head? = some .wait ∧ finished.busy = false) := by
  decide +kernel

theorem witness_EnginesDoNotDisturbEachOther :
    ∃ e1 e2 e12, (0 : Nat) ≠ 1 ∧ System.stepAt [absorbing, finished] 0 = .next e1 ∧
      System.stepAt e1 1 = .next e12 ∧ System.stepAt [absorbing, finished] 1 = .next e2 :=
  ⟨_, _, _, by decide, rfl, rfl, rfl⟩

end Sys2Proof.Tests
end

section
/-! PROOF. The machine's invariant, phase by phase: what each phase finds in the registers, and that every engine turn
and every host move hands the next phase what it needs (10_state.md R28, R37; 40_select.md R111; 43_toplevel.md R185;
60_exceptions.md R202). -/

namespace Sys2Proof.Machine

open Sys2Proof

/-- What the current phase finds in the registers: the invariant but for M, told by the phase. -/
def State.PhaseFacts (s : State) : Prop :=
  match s.phase with
  | .idle | .select => True
  | .init => ∃ c, s.Selected c
  | .absorb => s.idx.toNat ≤ s.nbytes.toNat ∧ ∃ c, s.Selected c ∧ s.digest.toNat < 2 ^ c.size
  | .fold => s.idx = s.nbytes ∧ s.fold = true ∧ ∃ c, s.Selected c ∧ s.digest.toNat < 2 ^ c.size
  | .emit => (∃ c, s.Selected c) ∧ s.idx = s.nbytes ∧ s.digest.toNat < 2 ^ s.lenVal
  | .done => (∃ c, s.Selected c) ∧ s.idx = s.nbytes ∧ s.digest.toNat < 2 ^ s.lenVal ∧ s.Emitted
  | .error => s.errval = s.len ∧ select s.lenVal = none

/-- The invariant is the canonical form of M and the facts of the current phase. -/
theorem State.inv_iff (s : State) : s.Inv ↔ Memory.wf s.mem = true ∧ s.PhaseFacts := by
  constructor
  · intro h
    refine ⟨h.memWf, ?_⟩
    unfold State.PhaseFacts
    split
    case h_1 | h_2 => trivial
    case h_3 hp => exact h.selected (by simp [State.selectionValid, hp])
    case h_4 hp => exact h.absorbing hp
    case h_5 hp => exact h.folding hp
    case h_6 hp => exact ⟨h.selected (by simp [State.selectionValid, hp]), h.result (.inl hp)⟩
    case h_7 hp =>
      obtain ⟨hidx, hlt⟩ := h.result (.inr hp)
      exact ⟨h.selected (by simp [State.selectionValid, hp]), hidx, hlt, h.emitted hp⟩
    case h_8 hp => exact h.refusedLen hp
  · rintro ⟨hwf, hf⟩
    unfold State.PhaseFacts at hf
    refine ⟨hwf, fun hv => ?_, fun hp => ?_, fun hp => ?_, fun hp => ?_, fun hp => ?_, fun hp => ?_⟩
    · cases hp : s.phase <;> simp only [State.selectionValid, hp] at hv hf
      case idle | select | error => exact absurd hv Bool.false_ne_true
      case init => exact hf
      case absorb => obtain ⟨-, c, hc, -⟩ := hf; exact ⟨c, hc⟩
      case fold => obtain ⟨-, -, c, hc, -⟩ := hf; exact ⟨c, hc⟩
      case emit | done => exact hf.1
    · simpa only [hp] using hf
    · simpa only [hp] using hf
    · rcases hp with hp | hp <;> simp only [hp] at hf
      · exact hf.2
      · obtain ⟨-, hidx, hlt, -⟩ := hf; exact ⟨hidx, hlt⟩
    · simp only [hp] at hf
      obtain ⟨-, -, -, he⟩ := hf
      exact he
    · simpa only [hp] using hf

/-! ### The selection -/

theorem State.Selected.selIndex_eq {s : State} {c : Selection} (h : s.Selected c) : selIndex s.sel = some c.k := by
  obtain ⟨-, hsel, -⟩ := h
  rw [hsel, selIndex_ofNat]

theorem State.Selected.size_eq {s : State} {c : Selection} (h : s.Selected c) : c.size = canonSize c.k := by
  obtain ⟨-, -, hsize, -⟩ := select_some h.1
  exact hsize

/-- Without folding the length is the size itself (40_select.md R111). -/
theorem State.Selected.size_eq_lenVal {s : State} {c : Selection} (h : s.Selected c) (hf : s.fold = false) :
    c.size = s.lenVal := by
  obtain ⟨hsel, -, hfold⟩ := h
  obtain ⟨-, -, -, hle, hneed⟩ := select_some hsel
  have hnot : ¬ s.lenVal < c.size := by simpa [hfold, hneed] using hf
  omega

/-! ### The values the micro-operations write -/

/-- IDX counts up without wrapping while it is below NBYTES (10_state.md R28). -/
theorem idx_succ_toNat {i n : BitVec 32} (h : i.toNat < n.toNat) : (i + 1).toNat = i.toNat + 1 := by
  bv_omega

theorem ofNat_basis_toNat (k : Fin 6) : (BitVec.ofNat 1024 ptab[k].basis).toNat = ptab[k].basis :=
  digest_toNat ((basis_lt k).trans_le (two_pow_canonSize_le k))

theorem ofNat_mix_toNat (p : Config.Ptab) (k : Fin 6) (mbm : Bool) (d b : Nat) :
    (BitVec.ofNat 1024 (mix p k mbm d b)).toNat = mix p k mbm d b :=
  digest_toNat ((mix_lt p k mbm d b).trans_le (two_pow_canonSize_le k))

/-- The result bytes fit in OBUF (10_state.md R29). -/
theorem serLen_digest_le (m : Config.SerMode) (d : BitVec 1024) : serLen m d.toNat ≤ 129 :=
  serLen_le m (BitVec.isLt d)

theorem State.emit_olen_toNat (s : State) (m : Config.SerMode) :
    (s.emit m).olen.toNat = serLen m s.digest.toNat := by
  have := serLen_digest_le m s.digest
  rw [State.emit_olen, BitVec.toNat_ofNat, Nat.mod_eq_of_lt (by omega)]

theorem State.emit_obufByte (s : State) (m : Config.SerMode) {i : Nat} (h : i < serLen m s.digest.toNat) :
    obufByte (s.emit m).obuf i = (ser m s.digest.toNat).getD i 0 := by
  have hi : i < 129 := h.trans_le (serLen_digest_le m s.digest)
  rw [obufByte_of_lt _ hi, State.emit_obuf, obufWriteAll_getElem, if_pos (by simpa using h), Nat.sub_zero]

/-! ### Every engine turn keeps the invariant -/

/-- No instruction writes M (20_memory.md R60). -/
theorem Turned.mem_eq {p : Config.Params} {s t : State} (h : Turned p s t) : t.mem = s.mem := by
  cases h <;> rfl

/-- What the last phase leaves in the registers is what the next one finds. -/
theorem Turned.phaseFacts {s t : State} (h : Turned params s t) (hs : s.PhaseFacts) : t.PhaseFacts := by
  unfold State.PhaseFacts at hs
  cases h with
  | start => trivial
  | rest => exact hs
  | sel _ c hc => exact ⟨c, hc, rfl, rfl⟩
  | selError _ hn => exact ⟨rfl, hn⟩
  | ini hp k hk =>
    simp only [hp] at hs
    obtain ⟨c, hc⟩ := hs
    obtain rfl : c.k = k := Option.some.inj (hc.selIndex_eq.symm.trans hk)
    refine ⟨Nat.zero_le _, c, hc, ?_⟩
    rw [State.initDigest_digest, ofNat_basis_toNat, hc.size_eq]
    exact basis_lt c.k
  | abs hp _ hlt k hk =>
    simp only [hp] at hs
    obtain ⟨-, c, hc, -⟩ := hs
    obtain rfl : c.k = k := Option.some.inj (hc.selIndex_eq.symm.trans hk)
    simp only [State.PhaseFacts, State.absorbed_phase, hp]
    refine ⟨?_, c, hc, ?_⟩
    · rw [State.absorbed_idx, idx_succ_toNat hlt]
      exact hlt
    · rw [State.absorbed_digest, ofNat_mix_toNat, hc.size_eq]
      exact mix_lt ..
  | absx hp he =>
    simp only [hp] at hs
    obtain ⟨-, c, hc, hd⟩ := hs
    cases hf : s.fold
    · have hlen : s.digest.toNat < 2 ^ s.lenVal := by rwa [← hc.size_eq_lenVal hf]
      simp only [State.PhaseFacts, State.leaveLoop_phase, hf]
      exact ⟨⟨c, hc⟩, he, hlen⟩
    · simp only [State.PhaseFacts, State.leaveLoop_phase, hf]
      exact ⟨he, hf, c, hc, hd⟩
  | fld hp =>
    simp only [hp] at hs
    obtain ⟨hidx, -, c, hc, -⟩ := hs
    refine ⟨⟨c, hc⟩, hidx, ?_⟩
    rw [State.foldDigest_digest, BitVec.toNat_ofNat]
    exact (Nat.mod_le _ _).trans_lt (xorFold_lt _ _)
  | emt hp =>
    simp only [hp] at hs
    obtain ⟨hc, hidx, hlt⟩ := hs
    exact ⟨hc, hidx, hlt, s.emit_olen_toNat serMode, fun _ hi => s.emit_obufByte serMode hi⟩

theorem engineTurn_keeps_inv {s t : State} (hs : s.Inv) (h : engineTurn s = .next t) : t.Inv := by
  have ht := (engineTurn_next_iff s t).mp h
  obtain ⟨hwf, hf⟩ := s.inv_iff.mp hs
  exact t.inv_iff.mpr ⟨ht.mem_eq ▸ hwf, ht.phaseFacts hf⟩

/-! ### Every host move keeps the invariant -/

/-- The invariant claims nothing of MSG_LEN and of what belongs to the host, and of M its canonical form only: a host
move that writes no more than these keeps it. -/
theorem State.Inv.update {s : State} (hs : s.Inv) (msgLen : BitVec 32) {m : Memory} (hm : Memory.wf m = true)
    (cmd : Option (BitVec 17)) (rdata : BitVec 32) (script : List HostMove) (stable : Bool) (draws : Nat) :
    State.Inv { s with
      msgLen := msgLen, mem := m, cmd := cmd, rdata := rdata, script := script, stable := stable, draws := draws } :=
  (State.inv_iff _).mpr ⟨hm, (s.inv_iff.mp hs).2⟩

theorem State.Inv.withScript {s : State} (hs : s.Inv) (ms : List HostMove) : (s.withScript ms).Inv :=
  hs.update _ hs.memWf ..

theorem State.Inv.hostRead {s : State} (hs : s.Inv) (n : Nat) : (s.hostRead n).Inv := hs.update _ hs.memWf ..

/-- A START begins a new operation, of which nothing is claimed before SEL, or waits. -/
theorem State.Inv.start {s : State} (hs : s.Inv) (mbm : Bool) (len : BitVec 16) : (s.start mbm len).Inv := by
  cases hb : s.busy
  · rw [State.start_of_ready hb]
    exact (State.inv_iff _).mpr ⟨hs.memWf, trivial⟩
  · rw [State.start_of_busy hb]
    exact hs.update _ hs.memWf ..

theorem hostTurn_keeps_inv {m : HostMove} {s t : State} (hs : s.Inv) (h : hostTurn m s = .next t) : t.Inv := by
  rcases hostTurn_cases h with ⟨-, he⟩ | ⟨-, -, he⟩ | ⟨-, -, rfl⟩ | ⟨i, b, -, rfl⟩ | ⟨v, -, he⟩ |
    ⟨v, -, rfl⟩ | ⟨n, v, -, -, rfl⟩ | ⟨n, -, rfl⟩ | ⟨-, rfl⟩ | ⟨-, rfl⟩
  · exact engineTurn_keeps_inv hs he
  · exact engineTurn_keeps_inv ((hs.hostRead 2).withScript _) he
  · exact hs.hostRead 2
  · exact hs.update _ (Memory.wf_write _ i b hs.memWf) ..
  · rw [exec_decodeCmd] at he
    cases he
    exact hs.start ..
  · exact hs.update _ hs.memWf ..
  · exact hs
  · exact hs.hostRead n
  · exact hs.update _ hs.memWf ..
  · exact (State.inv_iff _).mpr ⟨hs.memWf, trivial⟩

/-- Settles O42: the engine's turn and each host move keep the invariant. -/
theorem stepKeepsInvariant : Obligations.StepKeepsInvariant := by
  intro s t hs h
  rcases step_cases h with ⟨-, he⟩ | ⟨m, ms, -, hm⟩
  · exact engineTurn_keeps_inv hs he
  · exact hostTurn_keeps_inv (hs.withScript ms) hm

/-- Settles O43: PHASE is IDLE and M is empty, so that no phase's facts are asked for. -/
theorem resetMeetsInvariant : Obligations.ResetMeetsInvariant := by
  refine ⟨(State.inv_iff _).mpr ⟨Memory.reset_wf, trivial⟩, ⟨?_, ?_, ?_⟩, rfl, by decide⟩
  all_goals
    intro _ hp
    cases hp

end Sys2Proof.Machine
end

section
/-! PROOF. Which instruction writes which register (10_state.md R20, column 'written by'; 20_memory.md R60), and that
the command registers are constant during an operation (R21 to R23). -/

namespace Sys2Proof.Machine

open Sys2Proof

/-! ### A START, transferred or waiting, field by field -/

section
variable (s : State) (mbm : Bool) (len : BitVec 16)

@[simp] theorem State.start_msgLen : (s.start mbm len).msgLen = s.msgLen := by unfold State.start; split <;> rfl
@[simp] theorem State.start_sel : (s.start mbm len).sel = s.sel := by unfold State.start; split <;> rfl
@[simp] theorem State.start_fold : (s.start mbm len).fold = s.fold := by unfold State.start; split <;> rfl
@[simp] theorem State.start_digest : (s.start mbm len).digest = s.digest := by unfold State.start; split <;> rfl
@[simp] theorem State.start_idx : (s.start mbm len).idx = s.idx := by unfold State.start; split <;> rfl
@[simp] theorem State.start_obuf : (s.start mbm len).obuf = s.obuf := by unfold State.start; split <;> rfl
@[simp] theorem State.start_olen : (s.start mbm len).olen = s.olen := by unfold State.start; split <;> rfl
@[simp] theorem State.start_errval : (s.start mbm len).errval = s.errval := by unfold State.start; split <;> rfl
@[simp] theorem State.start_mem : (s.start mbm len).mem = s.mem := by unfold State.start; split <;> rfl

end

/-- A START that waits latches nothing (43_toplevel.md R173). -/
theorem State.start_command_of_busy {s : State} (hb : s.busy = true) (mbm : Bool) (len : BitVec 16) :
    (s.start mbm len).mbm = s.mbm ∧ (s.start mbm len).len = s.len ∧ (s.start mbm len).nbytes = s.nbytes := by
  rw [State.start_of_busy hb]
  exact ⟨rfl, rfl, rfl⟩

/-! ### The writers of each group of registers -/

section
variable {p : Config.Params} {i : Instr} {s t : State}

theorem Ran.host_unchanged (h : Ran p i s t) : t.msgLen = s.msgLen ∧ t.mem = s.mem := by
  cases h with
  | fnv1 | fnv1a => exact ⟨s.start_msgLen .., s.start_mem ..⟩
  | _ => exact ⟨rfl, rfl⟩

theorem Ran.command_unchanged (h : Ran p i s t) (hi : i.mnemonic ∉ ["FNV1", "FNV1A"] ∨ s.busy = true) :
    t.mbm = s.mbm ∧ t.len = s.len ∧ t.nbytes = s.nbytes := by
  cases h with
  | fnv1 | fnv1a => exact State.start_command_of_busy (by simpa [Instr.mnemonic] using hi) ..
  | _ => exact ⟨rfl, rfl, rfl⟩

theorem Ran.selection_unchanged (h : Ran p i s t) (hi : i.mnemonic ≠ "SEL") :
    t.sel = s.sel ∧ t.fold = s.fold ∧ t.errval = s.errval := by
  cases h with
  | fnv1 | fnv1a => exact ⟨s.start_sel .., s.start_fold .., s.start_errval ..⟩
  | sel | selError => exact absurd rfl hi
  | _ => exact ⟨rfl, rfl, rfl⟩

theorem Ran.digest_unchanged (h : Ran p i s t) (hi : i.mnemonic ∉ ["INI", "ABS1", "ABS1A", "FLD"]) :
    t.digest = s.digest := by
  cases h with
  | fnv1 | fnv1a => exact s.start_digest ..
  | ini | abs1 | abs1a | fld => simp [Instr.mnemonic] at hi
  | _ => rfl

theorem Ran.idx_unchanged (h : Ran p i s t) (hi : i.mnemonic ∉ ["INI", "ABS1", "ABS1A"]) : t.idx = s.idx := by
  cases h with
  | fnv1 | fnv1a => exact s.start_idx ..
  | ini | abs1 | abs1a => simp [Instr.mnemonic] at hi
  | _ => rfl

theorem Ran.output_unchanged (h : Ran p i s t) (hi : i.mnemonic ≠ "EMT") : t.obuf = s.obuf ∧ t.olen = s.olen := by
  cases h with
  | fnv1 | fnv1a => exact ⟨s.start_obuf .., s.start_olen ..⟩
  | emt => exact absurd rfl hi
  | _ => exact ⟨rfl, rfl⟩

end

/-- Settles O39, one group of registers after the other. -/
theorem registersChangeOnlyByTheirWriters : Obligations.RegistersChangeOnlyByTheirWriters := by
  intro i s t h
  have hr := (exec_next_iff i s t).mp h
  obtain ⟨hmsgLen, hmem⟩ := hr.host_unchanged
  exact ⟨hmsgLen, fun _ => by rw [hmem], hr.command_unchanged, hr.selection_unchanged, hr.digest_unchanged,
    hr.idx_unchanged, hr.output_unchanged⟩

/-! ### The command registers during an operation -/

theorem engineTurn_command_of_busy {s t : State} (hb : s.busy = true) (h : engineTurn s = .next t) :
    t.mbm = s.mbm ∧ t.len = s.len ∧ t.nbytes = s.nbytes := by
  rw [engineTurn_of_busy hb, exec_next_iff] at h
  exact h.command_unchanged (.inr hb)

theorem hostTurn_command_of_busy {m : HostMove} {s t : State} (hb : s.busy = true) (hm : m ≠ .reset)
    (h : hostTurn m s = .next t) : t.mbm = s.mbm ∧ t.len = s.len ∧ t.nbytes = s.nbytes := by
  rcases hostTurn_cases h with ⟨-, he⟩ | ⟨-, -, he⟩ | ⟨-, -, rfl⟩ | ⟨i, b, -, rfl⟩ | ⟨v, -, he⟩ |
    ⟨v, -, rfl⟩ | ⟨n, v, -, -, rfl⟩ | ⟨n, -, rfl⟩ | ⟨-, rfl⟩ | ⟨rfl, -⟩
  · exact engineTurn_command_of_busy hb he
  · exact engineTurn_command_of_busy (s := (s.hostRead 2).withScript _) hb he
  · exact ⟨rfl, rfl, rfl⟩
  · exact ⟨rfl, rfl, rfl⟩
  · exact ((exec_next_iff ..).mp he).command_unchanged (.inr hb)
  · exact ⟨rfl, rfl, rfl⟩
  · exact ⟨rfl, rfl, rfl⟩
  · exact ⟨rfl, rfl, rfl⟩
  · exact ⟨rfl, rfl, rfl⟩
  · exact absurd rfl hm

/-- Settles O40: an engine turn while BUSY is a micro-operation, a command offered then waits, and no other host move
but the reset event writes these registers. -/
theorem commandRegistersConstantWhileBusy : Obligations.CommandRegistersConstantWhileBusy := by
  intro s t hb hreset h
  rcases step_cases h with ⟨-, he⟩ | ⟨m, ms, hscript, hm⟩
  · exact engineTurn_command_of_busy hb he
  · have hne : m ≠ .reset := fun hm => hreset (by rw [hscript, hm]; rfl)
    exact hostTurn_command_of_busy (s := s.withScript ms) hb hne hm

end Sys2Proof.Machine
end

section
/-! PROOF. PTAB and SER_MODE as parameters of the step (10_state.md R38; 92_eei_decisions.md D9, D14): what INI, ABS1,
ABS1A and EMT make of them, and that nothing else reads them. -/

namespace Sys2Proof.Machine

open Sys2Proof

/-- A well-formed table keeps BASIS[k] below 2^SIZE[k] (92_eei_decisions.md). -/
theorem basis_lt_of_wellFormed {p : Config.Params} (hp : p.wellFormed = true) (k : Fin 6) :
    p.ptab[k].basis < 2 ^ canonSize k := by
  have hk := List.all_eq_true.mp hp k (List.mem_finRange k)
  simp only [Config.PtabEntry.wellFormed, Bool.and_eq_true, decide_eq_true_eq] at hk
  obtain ⟨⟨hsize, hbasis⟩, -⟩ := hk
  rwa [hsize] at hbasis

theorem initDigest_digest_toNat {p : Config.Params} (hp : p.wellFormed = true) (s : State) (k : Fin 6) :
    (s.initDigest p.ptab k).digest.toNat = p.ptab[k].basis :=
  digest_toNat ((basis_lt_of_wellFormed hp k).trans_le (two_pow_canonSize_le k))

/-- The mask of `xorb` changes no byte (41_accumulate.md R122). -/
theorem xorb_byte (d : Nat) (b : Byte) : xorb d b.toNat = d ^^^ b.toNat := by
  rw [xorb, show (0xFF : Nat) = 2 ^ 8 - 1 from rfl, Nat.and_two_pow_sub_one_eq_mod, Nat.mod_eq_of_lt b.isLt]

theorem mix_fnv1 (p : Config.Ptab) (k : Fin 6) (d : Nat) (b : Byte) :
    mix p k false d b.toNat = ((d * p[k].prime) % 2 ^ (32 <<< k.val)) ^^^ b.toNat := xorb_byte _ b

theorem mix_fnv1a (p : Config.Ptab) (k : Fin 6) (d : Nat) (b : Byte) :
    mix p k true d b.toNat = ((d ^^^ b.toNat) * p[k].prime) % 2 ^ (32 <<< k.val) := by
  rw [← xorb_byte]
  rfl

/-- While the premise of 20_memory.md R64 holds, a message read is the byte of M. -/
theorem State.memRead_of_stable {s : State} (h : s.stable = true) (i : Nat) : s.memRead i = Memory.byte s.mem i := by
  simp [State.memRead, h]

/-- While the premise of 20_memory.md R64 holds, an absorb step draws no free value: it writes DIGEST and IDX alone. -/
theorem State.absorbed_of_stable {s : State} (h : s.stable = true) (d : Nat) :
    s.absorbed d = { s with digest := BitVec.ofNat 1024 d, idx := s.idx + 1 } := by
  simp [State.absorbed, State.drawsAfterRead, h]

/-- ABS1 (`mbm = false`) and ABS1A (`mbm = true`) below NBYTES, while the message is stable: the new digest, the next
IDX and the frame (41_accumulate.md R125, R126). -/
theorem execWith_absorb_of_stable (p : Config.Params) {i : Instr} {s : State} {k : Fin 6} (mbm : Bool)
    (hlt : s.idx.toNat < s.nbytes.toNat) (hstable : s.stable = true)
    (hran : Ran p i s (s.absorbed (mix p.ptab k mbm s.digest.toNat (s.memRead s.idx.toNat).toNat))) :
    ∃ t, execWith p i s = .next t ∧
      t.digest.toNat = mix p.ptab k mbm s.digest.toNat (Memory.byte s.mem s.idx.toNat).toNat ∧
      t.idx.toNat = s.idx.toNat + 1 ∧ t = { s with digest := t.digest, idx := t.idx } := by
  rw [State.memRead_of_stable hstable] at hran
  exact ⟨_, (execWith_next_iff ..).mpr hran, ofNat_mix_toNat .., idx_succ_toNat hlt,
    State.absorbed_of_stable hstable _⟩

/-- EMT leaves the bytes of `ser` in OBUF, OLEN of them (43_toplevel.md R185). -/
theorem State.emit_bytes (s : State) (m : Config.SerMode) :
    (List.range (s.emit m).olen.toNat).map (obufByte (s.emit m).obuf) = ser m s.digest.toNat := by
  rw [State.emit_olen_toNat]
  refine List.ext_getElem (by simp) fun i _ hi => ?_
  have hlt : i < serLen m s.digest.toNat := by simpa using hi
  rw [List.getElem_map, List.getElem_range, State.emit_obufByte _ _ hlt, List.getD_eq_getElem _ _ hi]

/-- Every instruction but the four that read a parameter is the same at any two choices. -/
theorem execWith_congr_of_mnemonic (p q : Config.Params) (i : Instr) (s : State)
    (hi : i.mnemonic ∉ ["INI", "ABS1", "ABS1A", "EMT"]) : execWith p i s = execWith q i s := by
  cases i with
  | ini | abs1 | abs1a | emt => simp [Instr.mnemonic] at hi
  | _ => rfl

theorem stepWith_of_no_move (p : Config.Params) {s : State} (h : s.script = []) :
    stepWith p s = engineTurnBy (execWith p) s := by
  simp [stepWith, turnBy, h]

theorem stepWith_of_move (p : Config.Params) {s : State} {m : HostMove} {ms : List HostMove} (h : s.script = m :: ms) :
    stepWith p s = hostTurnBy (execWith p) m (s.withScript ms) := by
  simp [stepWith, turnBy, h]

theorem step_of_move {s : State} {m : HostMove} {ms : List HostMove} (h : s.script = m :: ms) :
    step s = hostTurn m (s.withScript ms) := by
  rw [← stepWith_params, stepWith_of_move _ h, execWith_params_eq]
  rfl

/-- A host access reads no parameter: a write of CMD is a command, whose meaning is the same at every choice, and the
other accesses run no instruction. -/
theorem hostTurnBy_congr (p q : Config.Params) {m : HostMove} {s : State} (hpass : m ≠ .pass)
    (hwait : m = .wait → s.busy = false) : hostTurnBy (execWith p) m s = hostTurnBy (execWith q) m s := by
  cases m with
  | pass => exact absurd rfl hpass
  | wait => simp [hostTurnBy, hwait rfl]
  | write n v => simp only [hostTurnBy, hostWriteBy, decode, execWith_decodeCmd]
  | _ => rfl

/-- Settles O60: the four readers of a parameter, each at every well-formed choice, and the independence of all else. -/
theorem stepTakesTheTableAsParameter : Obligations.StepTakesTheTableAsParameter := by
  refine ⟨execWith_params, stepWith_params, ptab_wellFormed, fun p _ h => stepWith_of_no_move p h, ?_, ?_,
    execWith_congr_of_mnemonic, ?_⟩
  · intro p s m f l k hp hk
    have hsel : selIndex s.sel = some k := (selIndex_eq_some_iff _ _).mpr hk
    have hini : execWith p (.ini m f l) s = .next (s.initDigest p.ptab k) :=
      (execWith_next_iff ..).mpr (.ini m f l s k hsel)
    refine ⟨⟨_, hini, initDigest_digest_toNat hp s k, rfl⟩, fun hlt hstable => ⟨?_, ?_⟩⟩
    · rw [← mix_fnv1]
      exact execWith_absorb_of_stable p false hlt hstable (.abs1 f s k hsel hlt)
    · rw [← mix_fnv1a]
      exact execWith_absorb_of_stable p true hlt hstable (.abs1a f s k hsel hlt)
  · intro p s m f l
    exact ⟨s.emit p.serMode, (execWith_next_iff ..).mpr (.emt m f l s), s.emit_bytes p.serMode, rfl⟩
  · intro p q s m hhead hpass hwait
    obtain ⟨ms, hscript⟩ := List.head?_eq_some_iff.mp hhead
    rw [stepWith_of_move p hscript, stepWith_of_move q hscript]
    exact hostTurnBy_congr p q hpass hwait

end Sys2Proof.Machine
end

section
/-! PROOF. The host's view of the registers: STATUS (10_state.md R33), the windows of a register read (R35, R36) and the
register numbers of a write (R35; 30_encoding.md R90). -/

namespace Sys2Proof.Machine

open Sys2Proof

/-! ### A word built by appending flags at bit 0 -/

theorem getLsbD_append_ofBool_zero {n : Nat} (x : BitVec n) (b : Bool) : (x ++ BitVec.ofBool b).getLsbD 0 = b := by
  rw [BitVec.getLsbD_append, if_pos Nat.one_pos]
  cases b <;> rfl

theorem getLsbD_append_ofBool_succ {n : Nat} (x : BitVec n) (b : Bool) (i : Nat) :
    (x ++ BitVec.ofBool b).getLsbD (i + 1) = x.getLsbD i := by
  rw [BitVec.getLsbD_append, if_neg (by omega), Nat.add_sub_cancel]

/-! ### STATUS, field by field -/

theorem statusWord_getLsbD_zero (s : State) : s.statusWord.getLsbD 0 = s.busy := getLsbD_append_ofBool_zero ..

theorem statusWord_getLsbD_one (s : State) : s.statusWord.getLsbD 1 = s.doneOut := by
  rw [State.statusWord, getLsbD_append_ofBool_succ, getLsbD_append_ofBool_zero]

theorem statusWord_getLsbD_two (s : State) : s.statusWord.getLsbD 2 = s.errOut := by
  rw [State.statusWord, getLsbD_append_ofBool_succ, getLsbD_append_ofBool_succ, getLsbD_append_ofBool_zero]

theorem busy_eq_true_iff (s : State) : s.busy = true ↔
    s.phase = .select ∨ s.phase = .init ∨ s.phase = .absorb ∨ s.phase = .fold ∨ s.phase = .emit := by
  unfold State.busy
  cases s.phase <;> decide

/-- The phase and the three flags it decides are all of STATUS. -/
theorem statusWord_of_phase {s : State} {p : Phase} (hp : s.phase = p) : s.statusWord =
    p.code ++ BitVec.ofBool (decide (p = .error)) ++ BitVec.ofBool (decide (p = .done)) ++
      BitVec.ofBool (phaseBusy p) := by
  subst hp
  rfl

theorem statusWord_extractLsb'_phase (s : State) : s.statusWord.extractLsb' 3 3 = s.phase.code := by
  rw [statusWord_of_phase rfl]
  cases s.phase <;> rfl

theorem regRead_status_toNat (s : State) : (s.regRead 2).toNat = s.statusWord.toNat := by
  show (s.statusWord.setWidth 32).toNat = _
  exact BitVec.toNat_setWidth_of_le (by decide)

/-- Settles O51: each bit is its flag, and the flags are those of the phase. -/
theorem statusWordIsTheView : Obligations.StatusWordIsTheView := by
  intro s
  refine ⟨?_, ?_, ?_, statusWord_extractLsb'_phase s, regRead_status_toNat s, fun hp => ?_, ?_⟩
  · rw [statusWord_getLsbD_zero, busy_eq_true_iff]
  · rw [statusWord_getLsbD_one, State.doneOut, decide_eq_true_iff]
  · rw [statusWord_getLsbD_two, State.errOut, decide_eq_true_iff]
  · rw [statusWord_of_phase hp]
    rfl
  · rw [statusWord_of_phase rfl]
    cases s.phase <;> decide

/-! ### Register reads inside their windows -/

/-- Inside its window a read shows the register's value. -/
theorem State.validOr_of_valid {w : Nat} (s : State) {valid : Bool} (h : valid = true) (v : BitVec w) (slot : Nat) :
    s.validOr valid v slot = v := by
  simp [State.validOr, h]

/-- A narrower register is zero-extended, which keeps its value (notes/assumptions/24.md). -/
theorem State.validOr_setWidth_toNat {w : Nat} (s : State) {valid : Bool} (h : valid = true) (v : BitVec w) (slot : Nat)
    (hw : w ≤ 32) : ((s.validOr valid v slot).setWidth 32).toNat = v.toNat := by
  rw [s.validOr_of_valid h, BitVec.toNat_setWidth_of_le hw]

theorem regRead_limb {s : State} (h : s.phase = .done) {i : Nat} (hi : i < 32) :
    s.regRead (32 + i) = digestLimb s.digest i := by
  simp (disch := omega) only [State.regRead, if_neg, if_pos]
  rw [s.validOr_of_valid (by simp [State.doneOut, h]), Nat.add_sub_cancel_left]

theorem regRead_obuf_toNat {s : State} (h : s.phase = .done) {i : Nat} (hi : i < 129) (hlen : i < s.olen.toNat) :
    (s.regRead (64 + i)).toNat = (obufByte s.obuf i).toNat := by
  simp (disch := omega) only [State.regRead, if_neg, if_pos]
  rw [Nat.add_sub_cancel_left, s.validOr_setWidth_toNat (by simp [State.doneOut, h, hlen]) _ _ (by decide)]

/-- Number 6 holds SEL, FOLD and MBM, from the top, each in its own window. -/
theorem regRead_six (s : State) : s.regRead 6 =
    (s.validOr s.selectionValid s.sel 0 ++ s.validOr s.selectionValid (BitVec.ofBool s.fold) 1 ++
      s.validOr s.commandValid (BitVec.ofBool s.mbm) 2).setWidth 32 := rfl

theorem regRead_six_mbm {s : State} (h : s.commandValid = true) : (s.regRead 6).getLsbD 0 = s.mbm := by
  rw [regRead_six, s.validOr_of_valid h, BitVec.getLsbD_setWidth, getLsbD_append_ofBool_zero]
  rfl

theorem regRead_six_fold {s : State} (h : s.selectionValid = true) : (s.regRead 6).getLsbD 1 = s.fold := by
  rw [regRead_six, s.validOr_of_valid h (BitVec.ofBool s.fold), BitVec.getLsbD_setWidth, BitVec.getLsbD_append,
    if_neg (by decide), getLsbD_append_ofBool_zero]
  rfl

theorem regRead_six_sel {s : State} (h : s.selectionValid = true) : (s.regRead 6).extractLsb' 2 3 = s.sel := by
  rw [regRead_six, s.validOr_of_valid h s.sel]
  rw [BitVec.extractLsb'_setWidth_of_le (by decide), BitVec.extractLsb'_append_eq_of_le (by decide),
    BitVec.extractLsb'_append_eq_of_le (by decide)]
  exact BitVec.extractLsb'_eq_self

/-- Settles O52, window by window. -/
theorem hostReadsInTheirWindows : Obligations.HostReadsInTheirWindows := by
  intro s
  refine ⟨rfl, fun hp => ?_,
    fun hp => ⟨?_, fun i hi => regRead_limb hp hi, fun i hi hlen => regRead_obuf_toNat hp hi hlen⟩, fun hp => ?_,
    fun hv => ⟨regRead_six_fold hv, regRead_six_sel hv⟩, fun hv => s.validOr_of_valid hv s.idx 0⟩
  · exact s.validOr_setWidth_toNat (by simp [State.errOut, hp]) s.errval 0 (by decide)
  · exact s.validOr_setWidth_toNat (by simp [State.doneOut, hp]) s.olen 0 (by decide)
  · have hv : s.commandValid = true := decide_eq_true hp
    exact ⟨s.validOr_setWidth_toNat hv s.len 0 (by decide), regRead_six_mbm hv⟩

/-! ### Register writes -/

/-- Settles O54: a write at number 0, 1 or any other is the write's own case of the host's turn. -/
theorem hostWritesByNumber : Obligations.HostWritesByNumber := by
  intro s n v ms hscript
  rw [step_of_move hscript]
  refine ⟨?_, ?_, fun hn => ?_⟩
  · rintro rfl
    rw [← BitVec.setWidth_eq_extractLsb' (by decide : 17 ≤ 32)]
    rfl
  · rintro rfl
    rfl
  · simp only [hostTurn, hostTurnBy, hostWriteBy]
    rw [if_neg (by omega), if_neg (by omega)]
    rfl

end Sys2Proof.Machine
end

section
/-! PROOF. Space M as the engine and the host see it (20_memory.md): a message read once the premise of R64 is
broken, what a turn makes of the bytes at NBYTES and above (R76), where the micro-operations stop (R61, R96; 42_fold.md
R144), and a host write to M (R60, R64). -/

namespace Sys2Proof.Machine

open Sys2Proof

/-! ### The two absorb steps are one routine (41_accumulate.md R134) -/

theorem exec_abs1 (f : Bool) (s : State) : exec (.abs1 f) s = absorb (fun k => mix ptab k false) s := rfl

theorem exec_abs1a (f : Bool) (s : State) : exec (.abs1a f) s = absorb (fun k => mix ptab k true) s := rfl

/-! ### A message read after the premise of R64 is broken -/

/-- Once the host has written the running message, a message read is a free value. -/
theorem State.memRead_of_not_stable {s : State} (h : s.stable = false) (i : Nat) :
    s.memRead i = Config.free 8 s.draws 0 := by
  simp [State.memRead, h]

theorem State.drawsAfterRead_of_not_stable {s : State} (h : s.stable = false) : s.drawsAfterRead = s.draws + 1 := by
  simp [State.drawsAfterRead, h]

/-- ABS1 (`mbm = false`) and ABS1A (`mbm = true`) below NBYTES, once the message is no longer stable: the byte is a free
value, the draws counter moves, and the rest of the effect is that of the stable case (`execWith_absorb_of_stable`). -/
theorem exec_absorb_of_not_stable {i : Instr} {s : State} {k : Fin 6} (mbm : Bool)
    (hlt : s.idx.toNat < s.nbytes.toNat) (hstable : s.stable = false)
    (hran : Ran params i s (s.absorbed (mix ptab k mbm s.digest.toNat (s.memRead s.idx.toNat).toNat))) :
    ∃ t, exec i s = .next t ∧
      t.digest.toNat = mix ptab k mbm s.digest.toNat (Config.free 8 s.draws 0).toNat ∧
      t.idx.toNat = s.idx.toNat + 1 ∧ t.draws = s.draws + 1 ∧
      t = { s with digest := t.digest, idx := t.idx, draws := t.draws } := by
  rw [State.memRead_of_not_stable hstable] at hran
  exact ⟨_, (exec_next_iff ..).mpr hran, ofNat_mix_toNat .., idx_succ_toNat hlt,
    State.drawsAfterRead_of_not_stable hstable, rfl⟩

/-- Settles O20: the byte is the free value that the draws counter names. -/
theorem absorbWithBrokenPremiseDrawsAByte : Obligations.AbsorbWithBrokenPremiseDrawsAByte := by
  intro s f k hk hlt hstable
  have hsel : selIndex s.sel = some k := (selIndex_eq_some_iff _ _).mpr hk
  refine ⟨⟨Config.free 8 s.draws 0, ?_⟩, ⟨Config.free 8 s.draws 0, ?_⟩⟩
  · rw [← mix_fnv1]
    exact exec_absorb_of_not_stable false hlt hstable (.abs1 f s k hsel hlt)
  · rw [← mix_fnv1a]
    exact exec_absorb_of_not_stable true hlt hstable (.abs1a f s k hsel hlt)

/-! ### The cases of FLD (42_fold.md R143, R144) -/

theorem execFld_of_selIndex_none {s : State} (hk : selIndex s.sel = none) : execFld s = .refused .selReserved := by
  simp [execFld, hk]

theorem execFld_of_foldDomain {s : State} {k : Fin 6} (hk : selIndex s.sel = some k) (h : foldDomain k s.lenVal) :
    execFld s = .next s.foldDigest := by
  simp only [execFld, hk, if_pos h]

/-- FLD outside the domain of `fold` (42_fold.md R144). -/
theorem execFld_of_not_foldDomain {s : State} {k : Fin 6} (hk : selIndex s.sel = some k)
    (h : ¬ foldDomain k s.lenVal) : execFld s = .refused .foldOutsideDomain := by
  simp only [execFld, hk, if_neg h]

/-! ### The bytes of M that a turn can see -/

section
variable {s : State} {m : Memory}

/-- A START neither reads nor writes M. -/
theorem State.start_with_mem (mbm : Bool) (len : BitVec 16) :
    State.start { s with mem := m } mbm len = { s.start mbm len with mem := m } := by
  cases hb : s.busy
  · rw [State.start_of_ready hb, State.start_of_ready (s := { s with mem := m }) hb]
    rfl
  · rw [State.start_of_busy hb, State.start_of_busy (s := { s with mem := m }) hb]
    rfl

theorem State.memRead_with_mem {i : Nat} (h : Memory.byte s.mem i = Memory.byte m i) :
    State.memRead { s with mem := m } i = s.memRead i := by
  simp [State.memRead, h]

theorem execFld_with_mem :
    execFld { s with mem := m } = mapNext (fun t => { t with mem := m }) (execFld s) := by
  cases hk : selIndex s.sel with
  | none =>
    rw [execFld_of_selIndex_none hk, execFld_of_selIndex_none (s := { s with mem := m }) hk]
    rfl
  | some k =>
    by_cases hd : foldDomain k s.lenVal
    · rw [execFld_of_foldDomain hk hd, execFld_of_foldDomain (s := { s with mem := m }) hk hd]
      rfl
    · rw [execFld_of_not_foldDomain hk hd, execFld_of_not_foldDomain (s := { s with mem := m }) hk hd]
      rfl

variable (h : ∀ i, i < s.nbytes.toNat → Memory.byte s.mem i = Memory.byte m i)
include h

/-- An absorb step reads M at IDX alone, which is below NBYTES (20_memory.md R61). -/
theorem absorb_with_mem (f : Fin 6 → Nat → Nat → Nat) :
    absorb f { s with mem := m } = mapNext (fun t => { t with mem := m }) (absorb f s) := by
  unfold absorb
  cases selIndex s.sel with
  | none => rfl
  | some k =>
    by_cases hlt : s.idx.toNat < s.nbytes.toNat
    · simp only [if_pos hlt, State.memRead_with_mem (h _ hlt)]
      rfl
    · simp only [if_neg hlt]
      rfl

/-- The absorb steps are the only instructions that read M. -/
theorem exec_with_mem (i : Instr) :
    exec i { s with mem := m } = mapNext (fun t => { t with mem := m }) (exec i s) := by
  cases i with
  | fnv1 len => exact congrArg _ (State.start_with_mem false len)
  | fnv1a len => exact congrArg _ (State.start_with_mem true len)
  | sel =>
    simp only [exec, execSel, State.lenVal]
    cases select s.len.toNat <;> rfl
  | ini =>
    simp only [exec, execIni, execIniWith]
    cases selIndex s.sel <;> rfl
  | abs1 f => rw [exec_abs1, exec_abs1, absorb_with_mem h]
  | abs1a f => rw [exec_abs1a, exec_abs1a, absorb_with_mem h]
  | fld => exact execFld_with_mem
  | _ => rfl

end

/-- Settles O49: the next word is made of registers, and its instruction reads M below NBYTES only. -/
theorem memoryBeyondTheMessageIsIrrelevant : Obligations.MemoryBeyondTheMessageIsIrrelevant :=
  fun s _ h => exec_with_mem h (decode s.nextWord)

/-! ### Where the micro-operations stop -/

/-- An absorb step at or above NBYTES has no byte to read (20_memory.md R61). -/
theorem absorb_of_nbytes_le {s : State} {k : Fin 6} (hk : selIndex s.sel = some k)
    (h : s.nbytes.toNat ≤ s.idx.toNat) (f : Fin 6 → Nat → Nat → Nat) : absorb f s = .fault .messageOutOfRange := by
  simp [absorb, hk, h]

/-- No size belongs to the SEL codes 6 and 7 (30_encoding.md R96). -/
theorem absorb_of_selIndex_none {s : State} (hk : selIndex s.sel = none) (f : Fin 6 → Nat → Nat → Nat) :
    absorb f s = .refused .selReserved := by
  simp [absorb, hk]

theorem execIni_of_selIndex_none {s : State} (hk : selIndex s.sel = none) : execIni s = .refused .selReserved := by
  simp [execIni, execIniWith, hk]

/-- Settles O38, stop by stop. -/
theorem stopsOutsideTheDomain : Obligations.StopsOutsideTheDomain := by
  refine ⟨fun s f hsel hidx => ?_, fun s m f l hsel => ?_, fun s m f l k hsel hlen => ?_⟩
  · have hk : selIndex s.sel = some ⟨s.sel.toNat, hsel⟩ := (selIndex_eq_some_iff _ _).mpr rfl
    rw [exec_abs1, exec_abs1a]
    exact ⟨absorb_of_nbytes_le hk hidx _, absorb_of_nbytes_le hk hidx _⟩
  · have hk : selIndex s.sel = none := (selIndex_eq_none_iff _).mpr hsel
    rw [exec_abs1, exec_abs1a]
    exact ⟨execIni_of_selIndex_none hk, absorb_of_selIndex_none hk _, absorb_of_selIndex_none hk _,
      execFld_of_selIndex_none hk⟩
  · have hk : selIndex s.sel = some k := (selIndex_eq_some_iff _ _).mpr hsel
    refine execFld_of_not_foldDomain hk fun ⟨hpos, hlt⟩ => ?_
    rcases hlen with hzero | hle
    · exact hpos.ne' hzero
    · exact hlt.not_ge hle

/-! ### A host write to M -/

/-- The premise of R64 outlives a write unless the engine is BUSY and the byte is one of its message. -/
theorem State.poke_stable_iff (s : State) (i : BitVec 32) (b : Byte) :
    (s.poke i b).stable = true ↔ s.stable = true ∧ (s.busy = false ∨ s.nbytes.toNat ≤ i.toNat) := by
  rw [State.poke_stable]
  cases s.busy <;> simp

/-- Settles O55: the move is `State.poke`, and M obeys the laws of a read after a write. -/
theorem hostPokeWritesOneByte : Obligations.HostPokeWritesOneByte := by
  intro s i b ms hscript
  exact ⟨(s.withScript ms).poke i b, step_of_move hscript, Memory.byte_write_same _ _ b,
    fun _ ha => Memory.read_write_other _ b ha, State.poke_stable_iff _ i b, rfl⟩

end Sys2Proof.Machine
end

section
/-! PROOF. The output buffer and the limbs of DIGEST as two views of one number (20_memory.md R69). -/

namespace Sys2Proof.Machine

open Sys2Proof

/-- Four bytes make a limb: byte `j` of the digest lies in limb `j / 4`, at byte `j % 4`
(44_bigint_multiplier.md R150). -/
theorem digestLimb_byte (d : BitVec 1024) (j : Nat) :
    ((digestLimb d (j / 4)).toNat >>> (8 * (j % 4))) &&& 0xFF = (byteAt d.toNat j).toNat := by
  have hbits : 32 * (j / 4) + 8 * (j % 4) = 8 * j := by omega
  refine Nat.eq_of_testBit_eq fun i => ?_
  rw [show (0xFF : Nat) = 2 ^ 8 - 1 from rfl]
  simp only [digestLimb, byteAt, BitVec.extractLsb'_toNat, BitVec.toNat_ofNat, Nat.and_two_pow_sub_one_eq_mod,
    Nat.testBit_mod_two_pow, Nat.testBit_shiftRight]
  by_cases hi : i < 8
  · rw [decide_eq_true (by omega : 8 * (j % 4) + i < 32), Bool.true_and, ← Nat.add_assoc, hbits]
  · simp only [hi, decide_false, Bool.false_and]

/-- OBUF counted from its last result byte is DIGEST counted from its byte 0 (43_toplevel.md R185). -/
theorem State.Emitted.obufByte_from_end {s : State} (h : s.Emitted) {j : Nat} (hj : j < s.olen.toNat) :
    obufByte s.obuf (s.olen.toNat - 1 - j) = byteAt s.digest.toNat j := by
  obtain ⟨holen, hobuf⟩ := h
  rw [holen] at hj ⊢
  have hlt : serLen serMode s.digest.toNat - 1 - j < serLen serMode s.digest.toNat := by omega
  rw [hobuf _ hlt, ser_getD _ _ _ hlt]
  congr 1
  omega

/-- Settles O37: both are byte `j` of DIGEST. -/
theorem outputBytesAreLimbBytes : Obligations.OutputBytesAreLimbBytes := by
  intro s j hs hp _ hj
  rw [(hs.emitted hp).obufByte_from_end hj, digestLimb_byte]

end Sys2Proof.Machine
end

section
/-! PROOF. The encodings (30_encoding.md): a word of either format is its fields put together again, so that the decoder
and the encoder undo each other (R90, R93, R95, R96) and each word lies in one row of the operation map. -/

namespace Sys2Proof

open Machine

/-! ### A word is its fields -/

theorem cmdBits_getLsbD_mbm (mbm : Bool) (len : BitVec 16) : (cmdBits mbm len).getLsbD 16 = mbm := by
  rw [cmdBits, BitVec.getLsbD_append, if_neg (by decide)]
  cases mbm <;> rfl

theorem cmdBits_extractLsb'_len (mbm : Bool) (len : BitVec 16) : (cmdBits mbm len).extractLsb' 0 16 = len :=
  BitVec.extractLsb'_append_eq_right

theorem cmdBits_fields (w : BitVec 17) : cmdBits (w.getLsbD 16) (w.extractLsb' 0 16) = w := by
  refine BitVec.eq_of_getLsbD_eq fun i hi => ?_
  rw [cmdBits, BitVec.getLsbD_append]
  split
  · simp [*]
  · obtain rfl : i = 16 := by omega
    cases w.getLsbD 16 <;> rfl

theorem Phase.code_ofCode (c : BitVec 3) : (Phase.ofCode c).code = c := by
  revert c; decide

theorem cwBits_fields (w : BitVec 6) :
    cwBits (Phase.ofCode (w.extractLsb' 3 3)) (w.getLsbD 2) (w.getLsbD 1) (w.getLsbD 0) = w := by
  refine BitVec.eq_of_getLsbD_eq fun i hi => ?_
  rw [cwBits, Phase.code_ofCode]
  match i with
  | 0 => simp only [getLsbD_append_ofBool_zero]
  | 1 => simp only [getLsbD_append_ofBool_succ, getLsbD_append_ofBool_zero]
  | 2 => simp only [getLsbD_append_ofBool_succ, getLsbD_append_ofBool_zero]
  | i + 3 =>
    simp only [getLsbD_append_ofBool_succ, BitVec.getLsbD_extractLsb']
    rw [decide_eq_true (by omega : i < 3), Bool.true_and, Nat.add_comm]

/-! ### Decoding and encoding -/

theorem decodeCmd_cmdBits (mbm : Bool) (len : BitVec 16) :
    decodeCmd (cmdBits mbm len) = if mbm then .fnv1a len else .fnv1 len := by
  rw [decodeCmd, cmdBits_getLsbD_mbm, cmdBits_extractLsb'_len]

theorem decode_encode (i : Instr) : decode (encode i) = i := by
  cases i with
  | fnv1 | fnv1a => exact decodeCmd_cmdBits ..
  | _ => exact decodeCw_cwBits ..

theorem encode_decodeCw_cwBits (p : Phase) (mbm fold last : Bool) :
    encode (decodeCw (cwBits p mbm fold last)) = .cw (cwBits p mbm fold last) := by
  rw [decodeCw_cwBits]
  cases p with
  | absorb => cases last <;> cases mbm <;> rfl
  | _ => rfl

theorem encode_decodeCmd_cmdBits (mbm : Bool) (len : BitVec 16) :
    encode (decodeCmd (cmdBits mbm len)) = .cmd (cmdBits mbm len) := by
  rw [decodeCmd_cmdBits]
  cases mbm <;> rfl

/-- Settles O2: a word is made of its fields, and the decoder and the encoder carry each field over. -/
theorem encodeOfDecode : Obligations.EncodeOfDecode := by
  intro c
  cases c with
  | cmd w =>
    rw [← cmdBits_fields w]
    exact encode_decodeCmd_cmdBits ..
  | cw w =>
    rw [← cwBits_fields w]
    exact encode_decodeCw_cwBits ..

/-! ### Words as bytes (notes/assumptions/10.md) -/

/-- The three bytes of a command word, put together again; the bits above bit 16 are not used (R90). -/
theorem append_bytes_setWidth (w : BitVec 17) :
    (w.extractLsb' 16 8 ++ w.extractLsb' 8 8 ++ w.extractLsb' 0 8).setWidth 17 = w := by
  have hhigh : w.extractLsb' 16 8 ++ w.extractLsb' 8 8 = w.extractLsb' 8 16 :=
    BitVec.extractLsb'_append_extractLsb'_eq_extractLsb' rfl
  have hall : w.extractLsb' 8 16 ++ w.extractLsb' 0 8 = w.extractLsb' 0 24 :=
    BitVec.extractLsb'_append_extractLsb'_eq_extractLsb' rfl
  rw [hhigh, hall]
  refine BitVec.eq_of_getLsbD_eq fun i hi => ?_
  simp [hi, show i < 24 by omega]

theorem wordOfBytes_toBytes (c : CodeWord) : wordOfBytes c.toBytes = .ok c := by
  cases c with
  | cmd w => simp only [CodeWord.toBytes, wordOfBytes, append_bytes_setWidth]
  | cw w =>
    have hlt : (w.setWidth 8).toNat < 64 := by
      rw [BitVec.toNat_setWidth_of_le (by decide)]
      exact w.isLt
    simp only [CodeWord.toBytes, wordOfBytes, if_pos hlt]
    simp

theorem tableBytes_cw (w : BitVec 6) : tableBytes 8 w.toNat = (CodeWord.cw w).toBytes := by
  simp [tableBytes, CodeWord.toBytes]

theorem tableBytes_cmd (w : BitVec 17) : tableBytes 24 w.toNat = (CodeWord.cmd w).toBytes := rfl

/-- Settles O1: the bytes hold the word, and the word holds every field of its instruction. -/
theorem decodeOfEncode : Obligations.DecodeOfEncode := by
  intro i
  refine ⟨decode_encode i, ?_⟩
  rw [decodeBytes, encodeBytes, wordOfBytes_toBytes]
  exact congrArg _ (decode_encode i)

/-- Settles O4, word by word. -/
theorem workedEncodingsDecode : Obligations.WorkedEncodingsDecode := by
  unfold Obligations.WorkedEncodingsDecode
  decide

/-! ### The operation map (R95) -/

/-- Two rows of the operation map have different formats, or fix a bit that both read to different values. -/
def OpRow.Disjoint (r q : OpRow) : Prop := r.format = q.format → r.value &&& q.mask ≠ q.value &&& r.mask

theorem OpRow.covers_iff (r : OpRow) (c : CodeWord) :
    r.covers c = true ↔ r.format = c.format ∧ c.toNat &&& r.mask = r.value := by
  simp [OpRow.covers]

theorem OpRow.Disjoint.not_covers {r q : OpRow} (h : r.Disjoint q) {c : CodeWord} (hr : r.covers c = true) :
    ¬ q.covers c = true := by
  intro hq
  obtain ⟨hrf, hrv⟩ := (r.covers_iff c).mp hr
  obtain ⟨hqf, hqv⟩ := (q.covers_iff c).mp hq
  refine h (hrf.trans hqf.symm) ?_
  rw [← hrv, ← hqv, Nat.and_right_comm]

theorem opTable_pairwise_disjoint : opTable.Pairwise OpRow.Disjoint := by
  unfold OpRow.Disjoint
  decide

/-- One row at most covers a word. -/
theorem opTable_filter_of_find? {c : CodeWord} {r : OpRow} (h : opTable.find? (fun r => r.covers c) = some r) :
    opTable.filter (fun r => r.covers c) = [r] := by
  have hdisj := opTable_pairwise_disjoint.filter fun r => r.covers c
  have hcov : ∀ q ∈ opTable.filter fun r => r.covers c, q.covers c = true := fun q hq => (List.mem_filter.mp hq).2
  rw [← List.head?_filter] at h
  match hl : opTable.filter fun r => r.covers c with
  | [] => simp [hl] at h
  | [q] => simpa [hl] using h
  | q :: q' :: rows =>
    rw [hl] at hdisj hcov
    exact absurd (hcov q' (by simp)) ((List.rel_of_pairwise_cons hdisj (by simp)).not_covers (hcov q (by simp)))

/-- The first row that covers an instruction's word is the instruction's. -/
theorem tableRow_statement (i : Instr) : Laws.TableRow.Statement i := by
  cases i with
  | fnv1 len => exact Laws.TableRow.fnv1 len
  | fnv1a len => exact Laws.TableRow.fnv1a len
  | idle m f l => exact Laws.TableRow.idle m f l
  | sel m f l => exact Laws.TableRow.sel m f l
  | ini m f l => exact Laws.TableRow.ini m f l
  | abs1 f => exact Laws.TableRow.abs1 f
  | abs1a f => exact Laws.TableRow.abs1a f
  | absx m f => exact Laws.TableRow.absx m f
  | fld m f l => exact Laws.TableRow.fld m f l
  | emt m f l => exact Laws.TableRow.emt m f l
  | done m f l => exact Laws.TableRow.done m f l
  | error m f l => exact Laws.TableRow.error m f l

/-- Settles O3: the row of the instruction covers its word, and no two rows cover the same word. -/
theorem everyWordHasExactlyOneRow : Obligations.EveryWordHasExactlyOneRow := by
  intro c
  have hrow := tableRow_statement (decode c)
  rw [Laws.TableRow.Statement, encodeOfDecode c] at hrow
  obtain ⟨r, hfind, hmnemonic⟩ := Option.map_eq_some_iff.mp hrow
  rw [opTable_filter_of_find? hfind, List.map_singleton, hmnemonic]

end Sys2Proof
end

section
/-! PROOF. The next word and its step (30_encoding.md R93, R94; 43_toplevel.md R170): how the registers make the control
word, how a word is placed to be next (notes/assumptions/9.md), and that the step runs it. -/

namespace Sys2Proof.Machine

open Sys2Proof

theorem step_of_no_move {s : State} (h : s.script = []) : step s = exec (decode s.nextWord) s := by
  rw [← stepWith_params, stepWith_of_no_move _ h, execWith_params_eq]
  rfl

/-- Settles O5: a step with no move and the move that makes no access are both the engine's turn. -/
theorem stepRunsDecodedWord : Obligations.StepRunsDecodedWord :=
  fun _ => ⟨step_of_no_move, fun _ => step_of_move, nextWord_of_busy, nextWord_of_none, fun _ => nextWord_of_offer⟩

/-- Settles O6: the control word's fields are the registers, and the decoder reads them back. -/
theorem controlWordSelectsMicroOperation : Obligations.ControlWordSelectsMicroOperation := by
  intro s
  rw [State.controlWord, decodeCw_cwBits, State.last]
  cases s.phase with
  | absorb => simp only [decide_eq_true_eq]
  | _ => rfl

/-! ### A word that is placed is next -/

section
variable (s : State)

theorem placeCommand_nextWord (w : BitVec 17) : (s.placeCommand w).nextWord = .cmd w := by
  refine nextWord_of_offer ?_ rfl
  show phaseBusy (if s.busy then .idle else s.phase) = false
  split
  · rfl
  · simpa [State.busy] using ‹¬ s.busy = true›

/-- The placed IDX and NBYTES are equal just where LAST is set. -/
theorem placeControl_last (w : BitVec 6) : (s.placeControl w).last = w.getLsbD 0 := by
  rw [State.last, Bool.eq_iff_iff, decide_eq_true_iff]
  simp only [State.placeControl]
  cases w.getLsbD 0 <;> simp

theorem placeControl_nextWord (w : BitVec 6) : (s.placeControl w).nextWord = .cw w := by
  rw [nextWord_of_none rfl, State.controlWord, placeControl_last]
  exact congrArg _ (cwBits_fields w)

theorem withFetchWord_cw (w : BitVec 6) : s.withFetchWord 8 w.toNat = s.placeControl w := by
  rw [State.withFetchWord, tableBytes_cw, State.placeBytes, wordOfBytes_toBytes]

theorem withFetchWord_cmd (w : BitVec 17) : s.withFetchWord 24 w.toNat = s.placeCommand w := by
  rw [State.withFetchWord, tableBytes_cmd, State.placeBytes, wordOfBytes_toBytes]

end

/-- Settles O7: placing a word leaves no host move, and makes the word the next one. -/
theorem placedWordIsRunNext : Obligations.PlacedWordIsRunNext := by
  refine ⟨fun s w => ?_, fun s w => ?_⟩
  · rw [withFetchWord_cw, step_of_no_move rfl, placeControl_nextWord]
    rfl
  · rw [withFetchWord_cmd, step_of_no_move rfl, placeCommand_nextWord]
    rfl

end Sys2Proof.Machine
end

section
/-! PROOF. The host's statements (30_encoding.md R98): WAIT, and the moves that prepare a message
(70_reset_and_hazards.md R235). -/

namespace Sys2Proof.Machine

open Sys2Proof

/-! ### WAIT -/

/-- The engine never touches the host's moves (70_reset_and_hazards.md R243). -/
theorem Turned.script_eq {p : Config.Params} {s t : State} (h : Turned p s t) : t.script = s.script := by
  cases h <;> rfl

/-- A wait while BUSY: STATUS is read, the wait stays first, and the engine has the turn. -/
theorem step_of_wait_busy {s : State} {ms : List HostMove} (h : s.script = .wait :: ms) (hb : s.busy = true) :
    step s = engineTurn (s.hostRead 2) := by
  have hs : ((s.withScript ms).hostRead 2).withScript (.wait :: ms) = s.hostRead 2 := by
    rw [← h]
    rfl
  rw [step_of_move h, ← hs]
  exact if_pos hb

/-- A wait when BUSY = 0: STATUS is read, and the wait ends. -/
theorem step_of_wait_ready {s : State} {ms : List HostMove} (h : s.script = .wait :: ms) (hb : s.busy = false) :
    step s = .next ((s.withScript ms).hostRead 2) := by
  rw [step_of_move h]
  exact if_neg (Bool.eq_false_iff.mp hb)

/-- Settles O57: the two cases of a wait; the engine's turn leaves the wait in place. -/
theorem waitPollsUntilReady : Obligations.WaitPollsUntilReady := by
  intro s ms h
  refine ⟨fun hb => ?_, fun hb => ⟨_, step_of_wait_ready h hb, rfl⟩⟩
  rw [step_of_wait_busy h hb]
  refine ⟨rfl, fun t ht => ?_⟩
  rw [((engineTurn_next_iff _ _).mp ht).script_eq]
  exact h

/-! ### Preparing a message -/

theorem run_succ_of_step {s u : State} (h : step s = .next u) (k : Nat) :
    Host.Core.run core (k + 1) s = Host.Core.run core k u := by
  have hcore : core.step s = .next u := h
  simp only [Host.Core.run, hcore]

/-- The writes of a message from index `i` on, and of its length: each write leaves the other indices as they were, so
that the first byte outlives the writes of the rest. -/
theorem run_pokeFrom (bs : List Byte) (i : Nat) (hi : i + bs.length ≤ 2 ^ 32) (s : State) (v : BitVec 32)
    (ms : List HostMove) (h : s.script = pokeFrom i bs ++ .write 1 v :: ms) :
    ∃ t : State, Host.Core.run core (bs.length + 1) s = .next t ∧ t.msgLen = v ∧
      (∀ j (hj : j < bs.length), Memory.byte t.mem (i + j) = bs[j]) ∧
      (∀ a, a < i ∨ i + bs.length ≤ a → Memory.read t.mem a = Memory.read s.mem a) ∧
      t = { s with script := ms, mem := t.mem, msgLen := t.msgLen, stable := t.stable } := by
  induction bs generalizing i s with
  | nil =>
    exact ⟨(s.withScript ms).writeMsgLen v, run_succ_of_step (step_of_move h) 0, rfl, by simp, fun _ _ => rfl, rfl⟩
  | cons b bs ih =>
    rw [List.length_cons] at hi
    have hindex : (BitVec.ofNat 32 i).toNat = i := by
      rw [BitVec.toNat_ofNat, Nat.mod_eq_of_lt (by omega)]
    obtain ⟨t, hrun, hlen, hbytes, hframe, ht⟩ := ih (i + 1) (by omega)
      ((s.withScript (pokeFrom (i + 1) bs ++ .write 1 v :: ms)).poke (BitVec.ofNat 32 i) b) rfl
    rw [State.poke_mem, State.withScript_mem, hindex] at hframe
    refine ⟨t, (run_succ_of_step (step_of_move h) _).trans hrun, hlen, fun j hj => ?_, fun a ha => ?_, ht⟩
    · cases j with
      | zero => simp [Memory.byte, hframe i (by omega)]
      | succ j =>
        rw [← Nat.add_assoc, Nat.add_right_comm]
        exact hbytes j (by simpa using hj)
    · rw [List.length_cons] at ha
      rw [hframe a (by omega), Memory.read_write_other _ b (by omega)]

/-- Settles O58: the moves are the writes of the message from index 0 on and of its length, one step each. -/
theorem prepareFillsTheMessage : Obligations.PrepareFillsTheMessage := by
  intro s bs ms hlen h
  rw [prepareMoves, List.append_assoc, List.singleton_append] at h
  obtain ⟨t, hrun, hmsgLen, hbytes, hframe, ht⟩ := run_pokeFrom bs 0 (by omega) s _ ms h
  refine ⟨t, hrun, ?_, ?_, fun a ha => hframe a (by omega), ht⟩
  · refine List.ext_getElem (Memory.message_length ..) fun j _ hj => ?_
    simpa [Memory.message] using hbytes j hj
  · rw [hmsgLen, BitVec.toNat_ofNat, Nat.mod_eq_of_lt hlen]

end Sys2Proof.Machine
end

section
/-! PROOF. The Parameter Selector (40_select.md): the selected size is the first that covers the length (R111), so that
the sizes below the length are just those before it. From this come the comparator form (R115) and the bounds (R114). -/

namespace Sys2Proof.Machine

open Sys2Proof

/-! ### The canonical sizes -/

theorem canonSize_mono {j k : Fin 6} (h : j ≤ k) : canonSize j ≤ canonSize k := by
  simp only [canonSize, Nat.shiftLeft_eq]
  exact Nat.mul_le_mul_left 32 (Nat.pow_le_pow_right two_pos h)

theorem canonSize_succ (j : Fin 5) : canonSize j.succ = 2 * canonSize j.castSucc := by
  simp only [canonSize, Nat.shiftLeft_eq, Fin.val_succ, Fin.val_castSucc]
  omega

/-! ### The selected index -/

theorem exists_selection {L : Nat} (hmin : 16 ≤ L) (hmax : L ≤ 1024) : ∃ c, select L = some c :=
  Option.ne_none_iff_exists'.mp fun h => by
    have := (select_eq_none_iff L).mp h
    omega

/-- The search meets the sizes in rising order, so that every size before the selected one is too small (R111). -/
theorem canonSize_lt_of_lt_k {L : Nat} {c : Selection} (h : select L = some c) {j : Fin 6} (hj : j < c.k) :
    canonSize j < L := by
  have hlist : ([0, 1, 2, 3, 4, 5] : List (Fin 6)) = List.finRange 6 := rfl
  unfold select at h
  rw [hlist] at h
  split_ifs at h
  obtain ⟨k, hk, rfl⟩ := Option.map_eq_some_iff.mp h
  obtain ⟨-, i, hi, hik, hbefore⟩ := List.find?_eq_some_iff_getElem.mp hk
  rw [List.getElem_finRange] at hik
  subst hik
  simpa using hbefore j hj

/-- The sizes below the length are those before the selected one. -/
theorem canonSize_lt_iff_lt_k {L : Nat} {c : Selection} (h : select L = some c) (j : Fin 6) :
    canonSize j < L ↔ j < c.k := by
  refine ⟨fun hlt => ?_, canonSize_lt_of_lt_k h⟩
  obtain ⟨-, -, hsize, hcover, -⟩ := select_some h
  by_contra hj
  have := canonSize_mono (not_lt.mp hj)
  omega

/-! ### The micro-operation SEL -/

/-- Settles O12: SEL latches the selection, whose size is the least that covers the length. -/
theorem selSelectsLeastCoveringSize : Obligations.SelSelectsLeastCoveringSize := by
  intro s m f l hmin hmax
  obtain ⟨c, hc⟩ := exists_selection hmin hmax
  obtain ⟨-, -, hsize, hcover, hfold⟩ := select_some hc
  rw [hsize] at hcover hfold
  refine ⟨c.k, hcover, fun j => canonSize_lt_of_lt_k hc, ?_⟩
  rw [(exec_next_iff _ s _).mpr (.sel m f l s c hc), State.latchSelection, hfold]
  rfl

/-- Settles O13: no size is selected for such a length, and SEL takes the exception. -/
theorem selRaisesUnsupportedLength : Obligations.SelRaisesUnsupportedLength := fun s m f l hlen =>
  (exec_next_iff _ s _).mpr (.selError m f l s ((select_eq_none_iff _).mpr hlen))

/-! ### The comparator form -/

theorem selectIndexByComparators_eq_sum (L : Nat) : selectIndexByComparators L =
    (if L > 32 then 1 else 0) + (if L > 64 then 1 else 0) + (if L > 128 then 1 else 0) +
      (if L > 256 then 1 else 0) + (if L > 512 then 1 else 0) := by
  simp only [selectIndexByComparators, List.countP_cons, List.countP_nil, decide_eq_true_eq, gt_iff_lt]
  omega

/-- The bounds are the sizes but the last, and those before the selected size are below the length (R115). -/
theorem selectIndexByComparators_eq_k {L : Nat} {c : Selection} (h : select L = some c) :
    selectIndexByComparators L = c.k := by
  have hbounds : [32, 64, 128, 256, 512] = (List.finRange 5).map fun j => canonSize j.castSucc := rfl
  have hcount : ∀ k : Fin 6, (List.finRange 5).countP (fun j => decide (j.castSucc < k)) = k := by decide
  simp only [selectIndexByComparators, hbounds, List.countP_map, Function.comp_def, canonSize_lt_iff_lt_k h, hcount]

/-- No fold is needed exactly when the length is a canonical size. -/
theorem foldNeeded_eq_false_iff {L : Nat} {c : Selection} (h : select L = some c) :
    c.foldNeeded = false ↔ ∃ j, L = canonSize j := by
  obtain ⟨-, -, hsize, hcover, hfold⟩ := select_some h
  rw [hfold, decide_eq_false_iff_not]
  constructor
  · intro hnot
    exact ⟨c.k, by omega⟩
  · rintro ⟨j, rfl⟩
    have hj := mt (canonSize_lt_iff_lt_k h j).mpr (lt_irrefl _)
    have := canonSize_mono (not_lt.mp hj)
    omega

theorem exists_eq_canonSize_iff (L : Nat) : (∃ j, L = canonSize j) ↔
    (L = 32 ∨ L = 64 ∨ L = 128 ∨ L = 256 ∨ L = 512 ∨ L = 1024) := by
  simp [Fin.exists_fin_succ, canonSize]

/-- Settles O15: the comparators count the sizes before the selected one. -/
theorem selectorComparatorForm : Obligations.SelectorComparatorForm := by
  intro L hmin hmax
  obtain ⟨c, hc⟩ := exists_selection hmin hmax
  refine ⟨c, hc, ?_, (foldNeeded_eq_false_iff hc).trans (exists_eq_canonSize_iff L),
    (selectIndexByComparators_eq_k hc).symm⟩
  rw [← selectIndexByComparators_eq_k hc, selectIndexByComparators_eq_sum]

/-! ### The bounds of the selected size -/

/-- Settles O16: the smallest size is at most twice the least length, and every other is twice the size before it, which
is below the length. -/
theorem selectedSizeAtMostTwiceTheLength : Obligations.SelectedSizeAtMostTwiceTheLength := by
  intro L c h
  obtain ⟨hmin, -, hsize, hcover, -⟩ := select_some h
  rcases Fin.eq_zero_or_eq_succ c.k with hk | ⟨j, hk⟩
  · have : c.size = 32 := by rw [hsize, hk]; rfl
    omega
  · have hbelow : canonSize j.castSucc < L := canonSize_lt_of_lt_k h (hk ▸ j.castSucc_lt_succ)
    have := canonSize_ge j.castSucc
    rw [hk, canonSize_succ] at hsize
    omega

end Sys2Proof.Machine
end

section
/-! PROOF. The Accumulator's micro-operations (41_accumulate.md R122, R124 to R129): the byte-mix step bit by bit, INI,
the two absorb steps, ABSX, and the accumulation one byte longer. -/

namespace Sys2Proof.Machine

open Sys2Proof

/-! ### The byte-mix step -/

theorem xorb_testBit (d b i : Nat) :
    (xorb d b).testBit i = (d.testBit i ^^ (decide (i < 8) && b.testBit i)) := by
  rw [xorb, Nat.testBit_xor, show (0xFF : Nat) = 2 ^ 8 - 1 from rfl, Nat.and_two_pow_sub_one_eq_mod,
    Nat.testBit_mod_two_pow]

theorem xorb_xorb_cancel (d b : Nat) : xorb (xorb d b) b = d := Nat.xor_xor_cancel_right ..

/-- Settles O22: the mask keeps the low eight bits of the operand, and the byte-mix step is an XOR. -/
theorem xorbChangesLowByteOnly : Obligations.XorbChangesLowByteOnly := fun d b =>
  ⟨xorb_testBit d b, xorb_xorb_cancel d b, fun _ hn hd => xorb_lt hd hn⟩

/-! ### The accumulation -/

/-- Settles O23: the loop runs over the bytes in order, so that the last byte is mixed in last. -/
theorem accumulateOneMoreByte : Obligations.AccumulateOneMoreByte := by
  intro p k bs b
  refine ⟨?_, ?_, accumulate_nil p k false, accumulate_nil p k true⟩
  · rw [accumulate_snoc, mix_fnv1]
  · rw [accumulate_snoc, mix_fnv1a]

/-! ### The micro-operations -/

/-- Settles O17: the code selects an index, and the basis at it fits in DIGEST. -/
theorem iniStartsAtBasis : Obligations.IniStartsAtBasis := by
  intro s m f l k hk
  have hsel : selIndex s.sel = some k := (selIndex_eq_some_iff _ _).mpr hk
  exact ⟨s.initDigest ptab k, (exec_next_iff ..).mpr (.ini m f l s k hsel), ofNat_basis_toNat k, rfl⟩

/-- Settles O18: the absorb step with the loop body of FNV-1. -/
theorem abs1MultipliesThenXors : Obligations.Abs1MultipliesThenXors := by
  intro s f k hk hlt hstable
  have hsel : selIndex s.sel = some k := (selIndex_eq_some_iff _ _).mpr hk
  rw [← mix_fnv1, ← execWith_params]
  exact execWith_absorb_of_stable params false hlt hstable (.abs1 f s k hsel hlt)

/-- Settles O19: the absorb step with the loop body of FNV-1a. -/
theorem abs1aXorsThenMultiplies : Obligations.Abs1aXorsThenMultiplies := by
  intro s f k hk hlt hstable
  have hsel : selIndex s.sel = some k := (selIndex_eq_some_iff _ _).mpr hk
  rw [← mix_fnv1a, ← execWith_params]
  exact execWith_absorb_of_stable params true hlt hstable (.abs1a f s k hsel hlt)

theorem exec_absx (m f : Bool) (s : State) : exec (.absx m f) s = .next s.leaveLoop := rfl

/-- Settles O21: the register FOLD chooses the phase, and the control word's bits are not read. -/
theorem absxLeavesTheLoop : Obligations.AbsxLeavesTheLoop := by
  intro s m f
  rw [exec_absx, State.leaveLoop]
  constructor
  · intro hfold
    rw [if_pos hfold]
  · intro hfold
    rw [if_neg (by simp [hfold])]

end Sys2Proof.Machine
end

section
/-! PROOF. The loop invariant (41_accumulate.md R130): what DIGEST is of the message in each phase of the loop and after
it, handed on by every engine turn and left alone by every host move that leaves the message alone. -/

namespace Sys2Proof.Machine

open Sys2Proof

/-- What DIGEST is of the message in the current phase: the loop invariant but for its premise, the stable message. -/
def State.LoopFacts (s : State) : Prop :=
  match s.phase with
  | .absorb => ∀ k, selIndex s.sel = some k →
      s.digest.toNat = accumulate ptab k s.mbm (Memory.message s.mem s.idx.toNat)
  | .fold => ∀ k, selIndex s.sel = some k →
      s.digest.toNat = accumulate ptab k s.mbm (Memory.message s.mem s.nbytes.toNat)
  | .emit => resultValue ptab s.mbm (Memory.message s.mem s.nbytes.toNat) s.lenVal = some s.digest.toNat
  | .idle | .select | .init | .done | .error => True

theorem State.loopInv_iff (s : State) : s.LoopInv ↔ (s.stable = true → s.LoopFacts) := by
  constructor
  · intro h hstable
    unfold State.LoopFacts
    cases hp : s.phase
    case absorb => exact h.absorbing hstable hp
    case fold => exact h.folding hstable hp
    case emit => exact h.emitting hstable hp
    all_goals trivial
  · intro h
    unfold State.LoopFacts at h
    refine ⟨fun hstable hp => ?_, fun hstable hp => ?_, fun hstable hp => ?_⟩ <;>
      simpa only [hp] using h hstable

/-! ### What the micro-operations make of it -/

/-- With the selection of LEN, the result value is the canonical digest of the message, folded where FOLD says so. -/
theorem State.Selected.resultValue_eq {s : State} {c : Selection} (h : s.Selected c) (mbm : Bool) (bytes : List Byte) :
    resultValue ptab mbm bytes s.lenVal = some
      (if s.fold then xorFold (accumulate ptab c.k mbm bytes) s.lenVal else accumulate ptab c.k mbm bytes) := by
  obtain ⟨hsel, -, hfold⟩ := h
  rw [resultValue, hsel, hfold]
  rfl

/-- The first bytes are none, and their accumulation is the basis. -/
theorem State.loopFacts_initDigest {s : State} {k : Fin 6} (hk : selIndex s.sel = some k) :
    (s.initDigest ptab k).LoopFacts := by
  intro j hj
  obtain rfl : k = j := Option.some.inj (hk.symm.trans hj)
  exact ofNat_basis_toNat k

/-- The absorb step mixes in the byte at IDX, the next one of the message. -/
theorem State.LoopFacts.absorbed {s : State} (h : s.LoopFacts) (hp : s.phase = .absorb) (hstable : s.stable = true)
    (hlt : s.idx.toNat < s.nbytes.toNat) {k : Fin 6} (hk : selIndex s.sel = some k) :
    (s.absorbed (mix ptab k s.mbm s.digest.toNat (s.memRead s.idx.toNat).toNat)).LoopFacts := by
  simp only [State.LoopFacts, State.absorbed_phase, hp] at h ⊢
  intro j hj
  obtain rfl : k = j := Option.some.inj (hk.symm.trans hj)
  calc (State.absorbed s _).digest.toNat
      = mix ptab k s.mbm s.digest.toNat (Memory.byte s.mem s.idx.toNat).toNat := by
        rw [State.absorbed_digest, ofNat_mix_toNat, State.memRead_of_stable hstable]
    _ = accumulate ptab k s.mbm (Memory.message s.mem (s.idx.toNat + 1)) := by
        rw [h k hk, Memory.message_succ, accumulate_snoc]
    _ = accumulate ptab k s.mbm (Memory.message s.mem (s.idx + 1).toNat) := by rw [idx_succ_toNat hlt]

/-- After the last byte DIGEST is the accumulation of the whole message, which is the result value where no fold
follows. -/
theorem State.LoopFacts.leaveLoop {s : State} (h : s.LoopFacts) (hp : s.phase = .absorb) (he : s.idx = s.nbytes)
    {c : Selection} (hc : s.Selected c) : s.leaveLoop.LoopFacts := by
  simp only [State.LoopFacts, hp, he] at h
  simp only [State.LoopFacts, State.leaveLoop_phase]
  cases hf : s.fold
  · show resultValue ptab s.mbm _ s.lenVal = some s.digest.toNat
    rw [hc.resultValue_eq, hf, h c.k hc.selIndex_eq]
    rfl
  · exact h

/-- FLD makes the result value of the canonical digest. -/
theorem State.LoopFacts.foldDigest {s : State} (h : s.LoopFacts) (hp : s.phase = .fold) (hf : s.fold = true)
    {c : Selection} (hc : s.Selected c) : s.foldDigest.LoopFacts := by
  simp only [State.LoopFacts, hp] at h
  show resultValue ptab s.mbm _ s.lenVal = some (BitVec.ofNat 1024 (xorFold s.digest.toNat s.lenVal)).toNat
  obtain ⟨-, -, -, hcover, -⟩ := select_some hc.1
  have hlt : xorFold s.digest.toNat s.lenVal < 2 ^ canonSize c.k :=
    (xorFold_lt _ _).trans_le (Nat.pow_le_pow_right two_pos (hc.size_eq ▸ hcover))
  rw [digest_toNat (hlt.trans_le (two_pow_canonSize_le c.k)), hc.resultValue_eq, hf, h c.k hc.selIndex_eq]
  rfl

/-! ### Every engine turn keeps the loop invariant -/

theorem Turned.loopInv {s t : State} (h : Turned params s t) (hs : s.Inv) (hl : s.LoopInv) : t.LoopInv := by
  rw [State.loopInv_iff] at hl ⊢
  cases h with
  | start | sel | selError | emt => exact fun _ => trivial
  | rest => exact hl
  | ini _ k hk => exact fun _ => State.loopFacts_initDigest hk
  | abs hp _ hlt k hk => exact fun hstable => (hl hstable).absorbed hp hstable hlt hk
  | absx hp he =>
    obtain ⟨-, c, hc, -⟩ := hs.absorbing hp
    exact fun hstable => (hl hstable).leaveLoop hp he hc
  | fld hp =>
    obtain ⟨-, hf, c, hc, -⟩ := hs.folding hp
    exact fun hstable => (hl hstable).foldDigest hp hf hc

theorem engineTurn_keeps_loopInv {s t : State} (hs : s.Inv) (hl : s.LoopInv) (h : engineTurn s = .next t) :
    t.LoopInv :=
  ((engineTurn_next_iff s t).mp h).loopInv hs hl

/-! ### Every host move keeps the loop invariant -/

/-- The loop invariant claims nothing of MSG_LEN and of what belongs to the host but M: a host move that writes no more
than these keeps it. -/
theorem State.LoopInv.update {s : State} (hl : s.LoopInv) (msgLen : BitVec 32) (cmd : Option (BitVec 17))
    (rdata : BitVec 32) (script : List HostMove) (draws : Nat) :
    State.LoopInv { s with msgLen := msgLen, cmd := cmd, rdata := rdata, script := script, draws := draws } :=
  ⟨hl.absorbing, hl.folding, hl.emitting⟩

theorem State.LoopInv.withScript {s : State} (hl : s.LoopInv) (ms : List HostMove) : (s.withScript ms).LoopInv :=
  hl.update ..

theorem State.LoopInv.hostRead {s : State} (hl : s.LoopInv) (n : Nat) : (s.hostRead n).LoopInv := hl.update ..

/-- A START begins a new operation, of which nothing is claimed before INI, or waits. -/
theorem State.LoopInv.start {s : State} (hl : s.LoopInv) (mbm : Bool) (len : BitVec 16) :
    (s.start mbm len).LoopInv := by
  cases hb : s.busy
  · rw [State.start_of_ready hb]
    exact (State.loopInv_iff _).mpr fun _ => trivial
  · rw [State.start_of_busy hb]
    exact hl.update ..

/-- A byte written at `i` or above is none of the first `n`, for `n` at most `i`. -/
theorem Memory.message_write_of_le (m : Memory) {n i : Nat} (h : n ≤ i) (b : Byte) :
    Memory.message (Memory.write m i b) n = Memory.message m n :=
  Memory.message_congr _ _ _ fun j hj => Memory.byte_write_other m b (by omega)

/-- A write while BUSY that keeps the premise of 20_memory.md R64 is at NBYTES or above, outside the message. -/
theorem State.poke_message {s : State} {i : BitVec 32} {b : Byte} (hstable : (s.poke i b).stable = true)
    (hb : s.busy = true) {n : Nat} (hn : n ≤ s.nbytes.toNat) :
    Memory.message (s.poke i b).mem n = Memory.message s.mem n := by
  obtain ⟨-, hready | hi⟩ := (s.poke_stable_iff i b).mp hstable
  · exact absurd (hb.symm.trans hready) (by decide)
  · exact Memory.message_write_of_le s.mem (hn.trans hi) b

theorem State.LoopInv.poke {s : State} (hs : s.Inv) (hl : s.LoopInv) (i : BitVec 32) (b : Byte) :
    (s.poke i b).LoopInv := by
  have hold : (s.poke i b).stable = true → s.stable = true := fun h => ((s.poke_stable_iff i b).mp h).1
  refine ⟨fun h hp => ?_, fun h hp => ?_, fun h hp => ?_⟩
  · obtain ⟨hidx, -⟩ := hs.absorbing hp
    rw [State.poke_idx, State.poke_message h (busy_of_phase hp) hidx]
    exact hl.absorbing (hold h) hp
  · rw [State.poke_nbytes, State.poke_message h (busy_of_phase hp) le_rfl]
    exact hl.folding (hold h) hp
  · rw [State.poke_nbytes, State.poke_message h (busy_of_phase hp) le_rfl]
    exact hl.emitting (hold h) hp

theorem hostTurn_keeps_loopInv {m : HostMove} {s t : State} (hs : s.Inv) (hl : s.LoopInv)
    (h : hostTurn m s = .next t) : t.LoopInv := by
  rcases hostTurn_cases h with ⟨-, he⟩ | ⟨-, -, he⟩ | ⟨-, -, rfl⟩ | ⟨i, b, -, rfl⟩ | ⟨v, -, he⟩ |
    ⟨v, -, rfl⟩ | ⟨n, v, -, -, rfl⟩ | ⟨n, -, rfl⟩ | ⟨-, rfl⟩ | ⟨-, rfl⟩
  · exact engineTurn_keeps_loopInv hs hl he
  · exact engineTurn_keeps_loopInv ((hs.hostRead 2).withScript _) ((hl.hostRead 2).withScript _) he
  · exact hl.hostRead 2
  · exact hl.poke hs i b
  · rw [exec_decodeCmd] at he
    cases he
    exact hl.start ..
  · exact hl.update ..
  · exact hl
  · exact hl.hostRead n
  · exact hl.update ..
  · exact (State.loopInv_iff _).mpr fun _ => trivial

/-- Settles O44: the engine's turn and each host move keep the loop invariant. -/
theorem stepKeepsLoopInvariant : Obligations.StepKeepsLoopInvariant := by
  intro s t hs hl h
  rcases step_cases h with ⟨-, he⟩ | ⟨m, ms, -, hm⟩
  · exact engineTurn_keeps_loopInv hs hl he
  · exact hostTurn_keeps_loopInv (hs.withScript ms) (hl.withScript ms) hm

end Sys2Proof.Machine
end

section
/-! PROOF. The XOR-fold (42_fold.md R140, R142, R143, R145): the folded digest bit by bit, the micro-operation FLD in
its domain, and the fold of a digest to half its size. -/

namespace Sys2Proof.Machine

open Sys2Proof

/-! ### The function `fold` -/

/-- The mask of R140 is a reduction modulo a power of two. -/
theorem xorFold_eq_mod (d t : Nat) : xorFold d t = (d ^^^ (d >>> t)) % 2 ^ t :=
  Nat.and_two_pow_sub_one_eq_mod ..

/-- Result bit `i` below `t` is the XOR of the digest bits `i` and `i + t` (R142). -/
theorem xorFold_testBit (d t i : Nat) :
    (xorFold d t).testBit i = (decide (i < t) && (d.testBit i ^^ d.testBit (i + t))) := by
  rw [xorFold_eq_mod, Nat.testBit_mod_two_pow, Nat.testBit_xor, Nat.testBit_shiftRight, Nat.add_comm t i]

/-- A digest of `2 * t` bits folds to the XOR of its halves: the mask cuts the low half out of the digest and leaves
the high half whole (R145). -/
theorem xorFold_of_lt_two_pow {d t : Nat} (h : d < 2 ^ (t + t)) : xorFold d t = (d / 2 ^ t) ^^^ (d % 2 ^ t) := by
  have hhigh : d / 2 ^ t < 2 ^ t := Nat.div_lt_of_lt_mul (Nat.pow_add 2 t t ▸ h)
  rw [xorFold_eq_mod, Nat.shiftRight_eq_div_pow, Nat.xor_mod_two_pow, Nat.mod_eq_of_lt hhigh, Nat.xor_comm]

/-- Settles O31: the digest has twice 16 bits. -/
theorem foldOfHalves : Obligations.FoldOfHalves := fun _ h => xorFold_of_lt_two_pow h

/-! ### The micro-operation FLD -/

/-- In the domain of `fold` the folded digest is kept whole in DIGEST, whose width is the largest size. -/
theorem State.foldDigest_digest_toNat {s : State} {k : Fin 6} (h : foldDomain k s.lenVal) :
    s.foldDigest.digest.toNat = xorFold s.digest.toNat s.lenVal := by
  obtain ⟨-, hlt⟩ := h
  refine digest_toNat ((xorFold_lt ..).trans_le ?_)
  exact (Nat.pow_le_pow_right two_pos hlt.le).trans (two_pow_canonSize_le k)

/-- Settles O30: FLD runs in the domain of `fold`, and DIGEST is then the folded digest. -/
theorem fldFoldsToLength : Obligations.FldFoldsToLength := by
  intro s m f l k hk hpos hlt
  have hdomain : foldDomain k s.lenVal := ⟨hpos, hlt⟩
  have hsel : selIndex s.sel = some k := (selIndex_eq_some_iff _ _).mpr hk
  have hdigest : s.foldDigest.digest.toNat = xorFold s.digest.toNat s.len.toNat := s.foldDigest_digest_toNat hdomain
  refine ⟨s.foldDigest, (exec_next_iff ..).mpr (.fld m f l s k hsel hdomain), hdigest, ?_, fun i => ?_, rfl⟩
  · rw [hdigest]
    exact xorFold_lt ..
  · rw [BitVec.getLsbD, hdigest, xorFold_testBit]
    rfl

end Sys2Proof.Machine
end

section
/-! PROOF. Serialisation (43_toplevel.md R184 to R189): the big-endian bytes of a number, the size of the leading byte,
which is all that tells the two modes and their lengths apart, and the micro-operation EMT. -/

namespace Sys2Proof.Machine

open Sys2Proof

/-! ### The big-endian bytes of a number -/

/-- The low `n` bytes of `v`, most significant first. -/
def bytesBE (n v : Nat) : List Byte := (List.range n).map fun i => byteAt v (n - 1 - i)

theorem ser_eq_bytesBE (m : Config.SerMode) (v : Nat) : ser m v = bytesBE (serLen m v) v := rfl

theorem byteAt_toNat (v j : Nat) : (byteAt v j).toNat = v / 2 ^ (8 * j) % 256 := by
  rw [byteAt, BitVec.toNat_ofNat, Nat.shiftRight_eq_div_pow]

theorem bytesBE_succ_eq_cons (n v : Nat) : bytesBE (n + 1) v = byteAt v n :: bytesBE n v := by
  simp only [bytesBE, List.range_succ_eq_map, List.map_cons, List.map_map, Nat.add_sub_cancel, Nat.sub_zero]
  refine congrArg _ (List.map_congr_left fun i _ => ?_)
  simp only [Function.comp_apply, Nat.succ_eq_add_one]
  congr 1
  omega

/-- The last byte is the low one; the others are those of the number without it. -/
theorem bytesBE_succ_eq_append (n v : Nat) : bytesBE (n + 1) v = bytesBE n (v / 256) ++ [byteAt v 0] := by
  simp only [bytesBE, List.range_succ, List.map_append, List.map_singleton, Nat.add_sub_cancel, Nat.sub_self]
  refine congrArg (· ++ _) (List.map_congr_left fun i hi => BitVec.eq_of_toNat_eq ?_)
  have hin : i < n := List.mem_range.mp hi
  rw [byteAt_toNat, byteAt_toNat, Nat.div_div_eq_div_mul, show (256 : Nat) = 2 ^ 8 from rfl, ← Nat.pow_add]
  congr 3
  omega

/-- The unsigned big-endian value of the low `n` bytes of a number that fits in them (R186 (a)). -/
theorem bytesBE_value (n : Nat) {v : Nat} (h : v < 256 ^ n) :
    (bytesBE n v).foldl (fun acc b => 256 * acc + b.toNat) 0 = v := by
  induction n generalizing v with
  | zero =>
    obtain rfl : v = 0 := by simpa using h
    rfl
  | succ n ih =>
    rw [bytesBE_succ_eq_append, List.foldl_append, ih (Nat.div_lt_of_lt_mul (by rwa [← Nat.pow_succ'])),
      List.foldl_cons, List.foldl_nil, byteAt_toNat, Nat.mul_zero, Nat.pow_zero, Nat.div_one, Nat.div_add_mod]

/-- The size of a leading byte is the length of the number in bits. -/
theorem byteAt_toNat_lt_iff {v n : Nat} (hv : bitlen v ≤ 8 * n + 8) (k : Nat) :
    (byteAt v n).toNat < 2 ^ k ↔ bitlen v ≤ 8 * n + k := by
  rw [bitlen_le_iff, Nat.pow_add] at hv
  have hbyte : v / 2 ^ (8 * n) < 256 := Nat.div_lt_of_lt_mul hv
  rw [byteAt_toNat, Nat.mod_eq_of_lt hbyte, bitlen_le_iff, Nat.pow_add, Nat.div_lt_iff_lt_mul (Nat.two_pow_pos _),
    Nat.mul_comm]

theorem byteAt_eq_zero_iff {v n : Nat} (hv : bitlen v ≤ 8 * n + 8) : byteAt v n = 0 ↔ bitlen v ≤ 8 * n := by
  have hlt := byteAt_toNat_lt_iff hv 0
  rw [Nat.pow_zero, Nat.lt_one_iff] at hlt
  rw [← BitVec.toNat_inj]
  exact hlt

/-! ### The mode SIGNED_MIN (R184, R186) -/

theorem serLen_signedMin (v : Nat) : serLen .signedMin v = bitlen v / 8 + 1 := rfl

theorem ser_signedMin_value (v : Nat) : (ser .signedMin v).foldl (fun acc b => 256 * acc + b.toNat) 0 = v := by
  rw [ser_eq_bytesBE]
  refine bytesBE_value _ ?_
  rw [show (256 : Nat) = 2 ^ 8 from rfl, ← Nat.pow_mul, ← bitlen_le_iff, serLen_signedMin]
  omega

theorem ser_signedMin_head (v : Nat) : (ser .signedMin v).getD 0 0 = byteAt v (bitlen v / 8) :=
  ser_getD .signedMin v 0 (Nat.succ_pos _)

/-- The leading byte is zero just where the bits of the number end at a byte's boundary (R186 (d)). -/
theorem ser_signedMin_head_eq_zero_iff (v : Nat) : (ser .signedMin v).getD 0 0 = 0 ↔ 8 ∣ bitlen v := by
  rw [ser_signedMin_head, byteAt_eq_zero_iff (by omega)]
  omega

/-- After a leading zero byte comes a byte with its top bit set, so that no shorter encoding has a clear sign bit
(R186 (c)). -/
theorem ser_signedMin_second_ge {v : Nat} (hlen : 2 ≤ serLen .signedMin v) (hhead : 8 ∣ bitlen v) :
    ¬ ((ser .signedMin v).getD 1 0).toNat < 0x80 := by
  rw [ser_getD _ _ _ hlen, show (0x80 : Nat) = 2 ^ 7 from rfl, byteAt_toNat_lt_iff]
  all_goals
    rw [serLen_signedMin] at hlen ⊢
    omega

/-- Settles O33: every clause but the first is the size of a leading byte, and the first makes different numbers have
different bytes. -/
theorem serSignedMinProperties : Obligations.SerSignedMinProperties := by
  intro v
  refine ⟨ser_signedMin_value v, ?_, ?_, ?_, fun u hu => ?_⟩
  · rw [ser_signedMin_head, show (0x80 : Nat) = 2 ^ 7 from rfl, byteAt_toNat_lt_iff (by omega)]
    omega
  · rw [ser_length, ser_signedMin_head_eq_zero_iff]
    exact fun hlen ⟨hhead, hsecond⟩ => ser_signedMin_second_ge hlen hhead hsecond
  · rw [ser_length, ser_signedMin_head_eq_zero_iff, serLen_signedMin]
    omega
  · rw [← ser_signedMin_value u, hu, ser_signedMin_value]

/-! ### The mode UNSIGNED_MIN (R189) -/

/-- Settles O34: the lengths differ by one just where the leading byte is the extra zero, and the bytes after it are the
same. -/
theorem serUnsignedMinOmitsTheExtraByte : Obligations.SerUnsignedMinOmitsTheExtraByte := by
  intro v
  refine ⟨?_, ser_length ..⟩
  rw [ser_eq_bytesBE, ser_eq_bytesBE, serLen_signedMin]
  split_ifs with h
  · have hlen : serLen .unsignedMin v = bitlen v / 8 := by
      simp only [serLen]
      omega
    rw [hlen, bytesBE_succ_eq_cons, List.tail_cons]
  · have hlen : serLen .unsignedMin v = bitlen v / 8 + 1 := by
      simp only [serLen]
      omega
    rw [hlen]

/-! ### The length of a result (R187, R188) -/

/-- The top bit of a number below `2 ^ (n + 1)` is set just where the number has all `n + 1` bits. -/
theorem testBit_top_iff {v n : Nat} (hv : v < 2 ^ (n + 1)) : v.testBit n = true ↔ n < bitlen v := by
  rw [← not_le, bitlen_le_iff, not_lt]
  constructor
  · exact Nat.ge_two_pow_of_testBit
  · exact fun hle => Nat.testBit_of_two_pow_le_and_two_pow_add_one_gt hle hv

/-- Settles O35: the length counts the bits of the result, which has at most `L` of them. -/
theorem resultLengthBounds : Obligations.ResultLengthBounds := by
  intro L r hmin hmax hr
  have hbits : bitlen r ≤ L := (bitlen_le_iff r L).mpr hr
  have htop : r.testBit (L - 1) = true ↔ L - 1 < bitlen r :=
    testBit_top_iff (by rwa [Nat.sub_add_cancel (by omega)])
  rw [htop, serLen_signedMin]
  omega

/-- Settles O36: the longest output has `L / 8` bytes after the first, so that the first holds the `L % 8` bits above
them. -/
theorem longestOutputHasLeadingZeroBits : Obligations.LongestOutputHasLeadingZeroBits := by
  intro L r _ _ hr hmod hlen
  have hbits : bitlen r ≤ L := (bitlen_le_iff r L).mpr hr
  rw [serLen_signedMin] at hlen
  rw [ser_signedMin_head, byteAt_toNat_lt_iff (by omega)]
  omega

/-! ### The micro-operation EMT (R185) -/

/-- OLEN is the least number of bytes that leaves the sign bit clear (R184). -/
theorem lt_two_pow_serLen_signedMin (v : Nat) : v < 2 ^ (8 * serLen .signedMin v - 1) := by
  rw [← bitlen_le_iff, serLen_signedMin]
  omega

theorem two_pow_le_of_lt_serLen_signedMin {v n : Nat} (hpos : 1 ≤ n) (hn : n < serLen .signedMin v) :
    2 ^ (8 * n - 1) ≤ v := by
  rw [serLen_signedMin] at hn
  rw [← not_lt, ← bitlen_le_iff]
  omega

/-- What EMT leaves is what phase DONE finds (R185). -/
theorem State.emit_emitted (s : State) : (s.emit serMode).Emitted :=
  ⟨s.emit_olen_toNat serMode, fun _ => s.emit_obufByte serMode⟩

/-- Settles O32: OLEN and OBUF are the length and the bytes of `ser`, counted from the last. -/
theorem emtEmitsShortestSignedBytes : Obligations.EmtEmitsShortestSignedBytes := by
  intro s m f l
  have holen : (s.emit serMode).olen.toNat = serLen .signedMin s.digest.toNat := s.emit_olen_toNat serMode
  refine ⟨s.emit serMode, (exec_next_iff ..).mpr (.emt m f l s), ?_, ?_, ?_, fun n hpos hn => ?_, fun j hj => ?_, rfl⟩
  · rw [holen]
    exact Nat.succ_pos _
  · rw [holen]
    exact serLen_digest_le ..
  · rw [holen]
    exact lt_two_pow_serLen_signedMin _
  · rw [holen] at hn
    exact two_pow_le_of_lt_serLen_signedMin hpos hn
  · rw [s.emit_emitted.obufByte_from_end hj, byteAt_toNat, State.emit_digest]

end Sys2Proof.Machine
end

section
/-! PROOF. Commands, rest and the host's reads (43_toplevel.md R170 to R173, R193): a command word is transferred when
BUSY = 0, waits at the port otherwise, and disturbs no running operation; a resting engine changes nothing. -/

namespace Sys2Proof.Machine

open Sys2Proof

/-! ### The START transfer -/

theorem busy_eq_false_iff (s : State) : s.busy = false ↔ s.phase = .idle ∨ s.phase = .done ∨ s.phase = .error := by
  unfold State.busy
  cases s.phase <;> decide

/-- Settles O8: a command word is a START, which transfers when BUSY = 0 and latches nothing while it waits. -/
theorem startTransferOnlyWhenReady : Obligations.StartTransferOnlyWhenReady := by
  intro s w
  rw [exec_decodeCmd]
  refine ⟨busy_eq_false_iff s, fun hb => ?_, fun hb t h => ?_⟩
  · rw [State.start_of_ready hb]
    rfl
  · rw [State.start_of_busy hb] at h
    cases h
    exact ⟨rfl, rfl, rfl, rfl⟩

/-- Settles O9: each command is the transfer of its own variant. -/
theorem commandsLatchVariantAndLength : Obligations.CommandsLatchVariantAndLength := by
  intro s len hb
  have hstart (mbm : Bool) : s.start mbm len = s.startTransfer mbm len := State.start_of_ready hb mbm len
  exact ⟨⟨_, (exec_next_iff ..).mpr (.fnv1 len s), hstart false⟩,
    ⟨_, (exec_next_iff ..).mpr (.fnv1a len s), hstart true⟩⟩

/-! ### A waiting command word -/

/-- A waiting word is the command it was made of, bit for bit. -/
theorem State.start_fields_of_busy {s : State} (hb : s.busy = true) (w : BitVec 17) :
    s.start (w.getLsbD 16) (w.extractLsb' 0 16) = { s with cmd := some w } := by
  rw [State.start_of_busy hb, cmdBits_fields]
  rfl

/-- A turn while BUSY leaves the port alone. -/
theorem Turned.cmd_eq_of_busy {p : Config.Params} {s t : State} (h : Turned p s t) (hb : s.busy = true) :
    t.cmd = s.cmd := by
  cases h with
  | start _ hready => exact absurd (hb.symm.trans hready) (by decide)
  | _ => rfl

theorem absorb_with_cmd (f : Fin 6 → Nat → Nat → Nat) (s : State) (c : Option (BitVec 17)) :
    absorb f { s with cmd := c } = mapNext (fun t => { t with cmd := c }) (absorb f s) := by
  unfold absorb
  cases selIndex s.sel with
  | none => rfl
  | some k =>
    by_cases hlt : s.idx.toNat < s.nbytes.toNat
    · simp only [if_pos hlt]
      rfl
    · simp only [if_neg hlt]
      rfl

theorem execFld_with_cmd (s : State) (c : Option (BitVec 17)) :
    execFld { s with cmd := c } = mapNext (fun t => { t with cmd := c }) (execFld s) := by
  cases hk : selIndex s.sel with
  | none =>
    rw [execFld_of_selIndex_none hk, execFld_of_selIndex_none (s := { s with cmd := c }) hk]
    rfl
  | some k =>
    by_cases hd : foldDomain k s.lenVal
    · rw [execFld_of_foldDomain hk hd, execFld_of_foldDomain (s := { s with cmd := c }) hk hd]
      rfl
    · rw [execFld_of_not_foldDomain hk hd, execFld_of_not_foldDomain (s := { s with cmd := c }) hk hd]
      rfl

/-- No micro-operation reads or writes the port. -/
theorem exec_decodeCw_with_cmd (p : Phase) (m f l : Bool) (s : State) (c : Option (BitVec 17)) :
    exec (decodeCw (cwBits p m f l)) { s with cmd := c } =
      mapNext (fun t => { t with cmd := c }) (exec (decodeCw (cwBits p m f l)) s) := by
  rw [decodeCw_cwBits]
  cases p with
  | select =>
    simp only [exec, execSel, State.lenVal]
    cases select s.len.toNat <;> rfl
  | init =>
    simp only [exec, execIni, execIniWith]
    cases selIndex s.sel <;> rfl
  | absorb =>
    cases l
    · cases m
      · exact absorb_with_cmd (fun k => mix ptab k false) s c
      · exact absorb_with_cmd (fun k => mix ptab k true) s c
    · rfl
  | fold => exact execFld_with_cmd s c
  | _ => rfl

/-- Settles O10: while BUSY the turn is a micro-operation, and no micro-operation knows of the port. -/
theorem commandWaitsWhileBusy : Obligations.CommandWaitsWhileBusy := by
  intro s hb
  refine ⟨by simp [State.cmdReady, hb], fun w => ?_, fun ms hscript => step_of_move hscript, fun t h => ?_, fun c => ?_⟩
  · rw [exec_decodeCmd, State.start_fields_of_busy hb]
  · exact ((engineTurn_next_iff s t).mp h).cmd_eq_of_busy hb
  · rw [engineTurn_of_busy hb, engineTurn_of_busy (s := { s with cmd := c }) hb]
    exact exec_decodeCw_with_cmd ..

/-! ### Rest and the host's reads -/

/-- A resting engine with no command offered and no host move pending has no step. -/
theorem step_of_rest {s : State} (hb : s.busy = false) (hc : s.cmd = none) (hscript : s.script = []) :
    step s = .next s := by
  rw [step_of_no_move hscript]
  exact (engineTurn_next_iff s s).mpr (.rest hb hc)

/-- Settles O11: the three instructions are the identity, and so is the step that runs one of them. -/
theorem restingPhasesChangeNothing : Obligations.RestingPhasesChangeNothing :=
  ⟨fun s m f l => ⟨(exec_next_iff ..).mpr (.idle m f l s), (exec_next_iff ..).mpr (.done m f l s),
    (exec_next_iff ..).mpr (.error m f l s)⟩, fun _ => step_of_rest⟩

/-- Settles O53: the move is `State.hostRead`. -/
theorem hostReadChangesNoRegister : Obligations.HostReadChangesNoRegister := fun s n ms hscript =>
  ⟨(s.withScript ms).hostRead n, step_of_move hscript, rfl, rfl⟩

end Sys2Proof.Machine
end

section
/-! PROOF. Control transfers and progress (43_toplevel.md R191, R192): PHASE changes as the table says, and under the
invariant no step stops. -/

namespace Sys2Proof.Machine

open Sys2Proof

/-! ### The table of control transfers -/

/-- In a resting phase the table knows a START and nothing else. -/
theorem State.transfer_iff_of_ready {s : State} (hb : s.busy = false) (next : Phase) :
    s.Transfer next ↔ (s.cmd ≠ none ∧ next = .select) ∨ (s.cmd = none ∧ next = s.phase) := by
  rcases (busy_eq_false_iff s).mp hb with hp | hp | hp <;> simp only [State.Transfer, hp]

/-- Every engine turn is a row of the table. -/
theorem Turned.transfer {p : Config.Params} {s t : State} (h : Turned p s t) : s.Transfer t.phase := by
  cases h with
  | start w hb hc => exact (State.transfer_iff_of_ready hb _).mpr (.inl ⟨by simp [hc], rfl⟩)
  | rest hb hc => exact (State.transfer_iff_of_ready hb _).mpr (.inr ⟨hc, rfl⟩)
  | sel hp c hc =>
    obtain ⟨hmin, hmax, -⟩ := select_some hc
    simp only [State.Transfer, hp]
    exact .inl ⟨hmin, hmax, rfl⟩
  | selError hp hn =>
    simp only [State.Transfer, hp]
    exact .inr ⟨(select_eq_none_iff _).mp hn, rfl⟩
  | abs hp hne => simp only [State.Transfer, State.absorbed_phase, hp, hne, ne_eq, not_false_eq_true, true_and, true_or]
  | absx hp he =>
    simp only [State.Transfer, State.leaveLoop_phase, hp]
    cases s.fold
    · exact .inr (.inr ⟨he, rfl, rfl⟩)
    · exact .inr (.inl ⟨he, rfl, rfl⟩)
  | ini hp | fld hp | emt hp =>
    simp only [State.Transfer, hp]
    rfl

theorem engineTurn_transfer {s t : State} (h : engineTurn s = .next t) : s.Transfer t.phase :=
  ((engineTurn_next_iff s t).mp h).transfer

theorem start_phase (s : State) (mbm : Bool) (len : BitVec 16) :
    (s.start mbm len).phase = if s.busy then s.phase else .select := by
  cases hb : s.busy
  · rw [State.start_of_ready hb]
    rfl
  · rw [State.start_of_busy hb]
    rfl

/-- A host move that gives the engine no turn, offers no command and is no reset keeps PHASE. -/
theorem hostTurn_phase_eq {m : HostMove} {s t : State} (h : hostTurn m s = .next t) (hpass : m ≠ .pass)
    (hreset : m ≠ .reset) (hstart : ∀ v, m ≠ .write 0 v) (hwait : m = .wait → s.busy = false) : t.phase = s.phase := by
  rcases hostTurn_cases h with ⟨hm, -⟩ | ⟨hm, hb, -⟩ | ⟨-, -, rfl⟩ | ⟨i, b, -, rfl⟩ | ⟨v, hm, -⟩ | ⟨v, -, rfl⟩ |
    ⟨n, v, -, -, rfl⟩ | ⟨n, -, rfl⟩ | ⟨-, rfl⟩ | ⟨hm, -⟩
  · exact absurd hm hpass
  · exact absurd (hb.symm.trans (hwait hm)) (by decide)
  · rfl
  · rfl
  · exact absurd hm (hstart v)
  · rfl
  · rfl
  · rfl
  · rfl
  · exact absurd hm hreset

/-- Settles O41: each event of the table is a turn of the engine, a START or a reset, and no other move is an event. -/
theorem controlTransfersAreTheTable : Obligations.ControlTransfersAreTheTable := by
  refine ⟨fun s t => engineTurn_transfer, fun s t h => ⟨?_, fun v hhead => ?_, fun hhead => ?_,
    fun m hhead hpass hreset hstart hwait => ?_⟩⟩
  · rintro (hscript | hhead | ⟨hhead, hb⟩)
    · rw [step_of_no_move hscript] at h
      exact engineTurn_transfer h
    · obtain ⟨ms, hscript⟩ := List.head?_eq_some_iff.mp hhead
      rw [step_of_move hscript] at h
      exact engineTurn_transfer (s := s.withScript ms) h
    · obtain ⟨ms, hscript⟩ := List.head?_eq_some_iff.mp hhead
      rw [step_of_wait_busy hscript hb] at h
      exact engineTurn_transfer (s := s.hostRead 2) h
  all_goals
    obtain ⟨ms, hscript⟩ := List.head?_eq_some_iff.mp hhead
    rw [step_of_move hscript] at h
  · have hran : exec (decodeCmd (v.setWidth 17)) (s.withScript ms) = .next t := h
    rw [exec_decodeCmd] at hran
    cases hran
    exact start_phase ..
  · cases h
    rfl
  · exact hostTurn_phase_eq (s := s.withScript ms) h hpass hreset hstart hwait

/-! ### Progress -/

/-- With FOLD = 1 the length is in the domain of `fold` (40_select.md R111; 42_fold.md R140). -/
theorem State.Selected.foldDomain {s : State} {c : Selection} (h : s.Selected c) (hf : s.fold = true) :
    foldDomain c.k s.lenVal := by
  obtain ⟨hsel, -, hfold⟩ := h
  obtain ⟨hmin, -, hsize, -, hneed⟩ := select_some hsel
  rw [hfold, hneed, decide_eq_true_eq, hsize] at hf
  exact ⟨by omega, hf⟩

/-- What a phase finds in the registers is all that its micro-operation asks for. -/
theorem State.PhaseFacts.exists_turned {s : State} (h : s.PhaseFacts) : ∃ t, Turned params s t := by
  have hready : s.busy = false → ∃ t, Turned params s t := fun hb => by
    cases hc : s.cmd with
    | none => exact ⟨_, .rest hb hc⟩
    | some w => exact ⟨_, .start w hb hc⟩
  cases hp : s.phase <;> simp only [State.PhaseFacts, hp] at h
  case idle | done | error => exact hready (busy_of_phase hp)
  case select =>
    cases hc : select s.lenVal with
    | none => exact ⟨_, .selError hp hc⟩
    | some c => exact ⟨_, .sel hp c hc⟩
  case init =>
    obtain ⟨c, hc⟩ := h
    exact ⟨_, .ini hp c.k hc.selIndex_eq⟩
  case absorb =>
    obtain ⟨hle, c, hc, -⟩ := h
    by_cases he : s.idx = s.nbytes
    · exact ⟨_, .absx hp he⟩
    · exact ⟨_, .abs hp he (lt_of_le_of_ne hle (mt BitVec.eq_of_toNat_eq he)) c.k hc.selIndex_eq⟩
  case fold =>
    obtain ⟨-, hf, c, hc, -⟩ := h
    exact ⟨_, .fld hp c.k hc.selIndex_eq (hc.foldDomain hf)⟩
  case emit => exact ⟨_, .emt hp⟩

theorem engineTurn_completes {s : State} (h : s.PhaseFacts) : Completes (engineTurn s) := by
  obtain ⟨t, ht⟩ := h.exists_turned
  exact ⟨t, (engineTurn_next_iff s t).mpr ht⟩

/-- A host move completes: it gives the engine a turn, offers a command, or runs no instruction. -/
theorem hostTurn_completes {s : State} (h : s.PhaseFacts) (m : HostMove) : Completes (hostTurn m s) := by
  cases m with
  | pass => exact engineTurn_completes h
  | wait =>
    cases hb : s.busy
    · exact ⟨s.hostRead 2, if_neg (Bool.eq_false_iff.mp hb)⟩
    · obtain ⟨t, ht⟩ := engineTurn_completes (s := (s.hostRead 2).withScript (.wait :: s.script)) h
      exact ⟨t, (if_pos hb).trans ht⟩
  | write n v =>
    match n with
    | 0 => exact ⟨_, exec_decodeCmd (v.setWidth 17) s⟩
    | 1 => exact ⟨_, rfl⟩
    | n + 2 => exact ⟨_, rfl⟩
  | _ => exact ⟨_, rfl⟩

/-- Settles O45: the facts of the phase are what the engine's turn needs, and no host move asks for more. -/
theorem invariantGivesProgress : Obligations.InvariantGivesProgress := by
  intro s hs
  obtain ⟨-, hf⟩ := s.inv_iff.mp hs
  cases hscript : s.script with
  | nil =>
    rw [step_of_no_move hscript]
    exact engineTurn_completes hf
  | cons m ms =>
    rw [step_of_move hscript]
    exact hostTurn_completes (s := s.withScript ms) hf m

end Sys2Proof.Machine
end

section
/-! PROOF. A whole operation (43_toplevel.md R190, R192, R194): the phase it is in after every number of engine steps,
what DIGEST is of the message all the way to DONE, and the run from the START transfer to rest. -/

namespace Sys2Proof.Machine

open Sys2Proof

/-! ### The clock of an operation (R192) -/

/-- The engine steps of an operation after its START transfer: SEL, INI, one for each byte, ABSX, FLD where a fold is
needed, and EMT; or SEL alone. -/
def operationSteps (L N : Nat) : Nat :=
  match select L with
  | some c => N + 4 + (if c.foldNeeded then 1 else 0)
  | none => 1

/-- The phase of an operation with length `L` and `N` message bytes, `n` engine steps after its START transfer. -/
def operationPhase (L N n : Nat) : Phase :=
  if n = 0 then .select
  else if (select L).isNone then .error
  else if n = 1 then .init
  else if n ≤ N + 2 then .absorb
  else if n + 1 < operationSteps L N then .fold
  else if n + 1 = operationSteps L N then .emit
  else .done

theorem operationSteps_of_some {L : Nat} {c : Selection} (h : select L = some c) (N : Nat) :
    operationSteps L N = N + 4 + (if c.foldNeeded then 1 else 0) := by
  simp only [operationSteps, h]

theorem operationSteps_of_none {L : Nat} (h : select L = none) (N : Nat) : operationSteps L N = 1 := by
  simp only [operationSteps, h]

theorem operationPhase_of_some {L : Nat} {c : Selection} (h : select L = some c) (N n : Nat) : operationPhase L N n =
    if n = 0 then .select else if n = 1 then .init else if n ≤ N + 2 then .absorb
    else if n + 1 < operationSteps L N then .fold else if n + 1 = operationSteps L N then .emit else .done := by
  simp only [operationPhase, h, Option.isNone_some, Bool.false_eq_true, if_false]

/-- An operation is BUSY before its last step. -/
theorem phaseBusy_operationPhase {L N n : Nat} (hn : n < operationSteps L N) :
    phaseBusy (operationPhase L N n) = true := by
  unfold operationPhase
  split_ifs with h0 hnone
  · rfl
  · rw [operationSteps_of_none (Option.isNone_iff_eq_none.mp hnone)] at hn
    omega
  · rfl
  · rfl
  · rfl
  · rfl
  · omega

/-- After its last step an operation rests in DONE, or in ERROR. -/
theorem operationPhase_operationSteps (L N : Nat) :
    operationPhase L N (operationSteps L N) = if (select L).isSome then .done else .error := by
  cases hsel : select L with
  | none => simp [operationPhase, operationSteps_of_none hsel, hsel]
  | some c =>
    have hsteps := operationSteps_of_some hsel N
    simp (disch := omega) only [operationPhase_of_some hsel, if_neg, Option.isSome_some, if_true]

/-- The number of engine steps since the START transfer, as the registers show it. -/
def State.Clock (s : State) (n : Nat) : Prop :=
  match s.phase with
  | .idle => False
  | .select => n = 0
  | .init => n = 1
  | .absorb => n = s.idx.toNat + 2
  | .fold => n = s.nbytes.toNat + 3
  | .emit => n + 1 = operationSteps s.lenVal s.nbytes.toNat
  | .done => operationSteps s.lenVal s.nbytes.toNat ≤ n
  | .error => 1 ≤ n

theorem State.Selected.operationSteps_eq {s : State} {c : Selection} (h : s.Selected c) (N : Nat) :
    operationSteps s.lenVal N = N + 4 + (if s.fold then 1 else 0) := by
  obtain ⟨hsel, -, hfold⟩ := h
  rw [operationSteps_of_some hsel, hfold]

/-- The phase is that of the clock. -/
theorem State.Clock.phase_eq {s : State} {n : Nat} (h : s.Clock n) (hs : s.PhaseFacts) :
    s.phase = operationPhase s.lenVal s.nbytes.toNat n := by
  cases hp : s.phase <;> simp only [State.Clock, State.PhaseFacts, hp] at h hs
  case select => rw [operationPhase, if_pos h]
  case error =>
    obtain ⟨-, hn⟩ := hs
    rw [operationPhase, if_neg (by omega), if_pos (by simp [hn])]
  case init =>
    obtain ⟨c, hc⟩ := hs
    simp (disch := omega) only [operationPhase_of_some hc.1, if_neg, if_pos]
  case absorb =>
    obtain ⟨hidx, c, hc, -⟩ := hs
    simp (disch := omega) only [operationPhase_of_some hc.1, if_neg, if_pos]
  case fold =>
    obtain ⟨-, hf, c, hc, -⟩ := hs
    have hsteps := hc.operationSteps_eq s.nbytes.toNat
    rw [hf, if_pos rfl] at hsteps
    simp (disch := omega) only [operationPhase_of_some hc.1, if_neg, if_pos]
  case emit =>
    obtain ⟨⟨c, hc⟩, -⟩ := hs
    have hsteps := hc.operationSteps_eq s.nbytes.toNat
    simp (disch := omega) only [operationPhase_of_some hc.1, if_neg, if_pos]
  case done =>
    obtain ⟨⟨c, hc⟩, -⟩ := hs
    have hsteps := hc.operationSteps_eq s.nbytes.toNat
    simp (disch := omega) only [operationPhase_of_some hc.1, if_neg]

/-- Every engine turn without a command is one tick of the clock. -/
theorem Turned.clock {s t : State} (ht : Turned params s t) (hs : s.PhaseFacts) (hcmd : s.cmd = none) {n : Nat}
    (h : s.Clock n) : t.Clock (n + 1) := by
  unfold State.Clock at h
  unfold State.PhaseFacts at hs
  cases ht with
  | start w _ hw => exact absurd (hcmd.symm.trans hw) (by simp)
  | rest hb =>
    rcases (busy_eq_false_iff s).mp hb with hp | hp | hp <;> simp only [hp] at h
    · simp only [State.Clock, hp]
      omega
    · simp only [State.Clock, hp]
      omega
  | sel hp =>
    simp only [hp] at h
    exact congrArg (· + 1) h
  | selError => exact Nat.le_add_left 1 n
  | ini hp =>
    simp only [hp] at h
    exact congrArg (· + 1) h
  | abs hp _ hlt =>
    simp only [hp] at h
    simp only [State.Clock, State.absorbed_phase, hp, State.absorbed_idx, idx_succ_toNat hlt]
    omega
  | absx hp he =>
    simp only [hp] at h hs
    obtain ⟨-, c, hc, -⟩ := hs
    have hsteps := hc.operationSteps_eq s.nbytes.toNat
    simp only [State.Clock, State.leaveLoop_phase]
    rw [he] at h
    cases hf : s.fold
    · rw [hf] at hsteps
      show n + 1 + 1 = operationSteps s.lenVal s.nbytes.toNat
      rw [hsteps, h]
      rfl
    · exact congrArg (· + 1) h
  | fld hp =>
    simp only [hp] at h hs
    obtain ⟨-, hf, c, hc, -⟩ := hs
    show n + 1 + 1 = operationSteps s.lenVal s.nbytes.toNat
    rw [hc.operationSteps_eq, hf, h]
    rfl
  | emt hp =>
    simp only [hp] at h
    exact h.ge

/-! ### The value on its way (R190) -/

/-- Every engine turn hands on what DIGEST is of the message: of M it asks nothing but the message. -/
theorem Turned.loopFacts {s t : State} (h : Turned params s t) (hs : s.PhaseFacts) (hstable : s.stable = true)
    (hl : s.LoopFacts) : t.LoopFacts := by
  unfold State.PhaseFacts at hs
  cases h with
  | start | sel | selError | emt => trivial
  | rest => exact hl
  | ini _ k hk => exact State.loopFacts_initDigest hk
  | abs hp _ hlt k hk => exact hl.absorbed hp hstable hlt hk
  | absx hp he =>
    simp only [hp] at hs
    obtain ⟨-, c, hc, -⟩ := hs
    exact hl.leaveLoop hp he hc
  | fld hp =>
    simp only [hp] at hs
    obtain ⟨-, hf, c, hc, -⟩ := hs
    exact hl.foldDigest hp hf hc

/-- In DONE DIGEST is the result value of the message. -/
def State.Resulted (s : State) : Prop :=
  s.phase = .done → resultValue ptab s.mbm (Memory.message s.mem s.nbytes.toNat) s.lenVal = some s.digest.toNat

/-- DONE is entered from EMIT, where the loop invariant knows the result value, and DIGEST is left as it is. -/
theorem Turned.resulted {p : Config.Params} {s t : State} (h : Turned p s t) (hl : s.LoopFacts) (hr : s.Resulted) :
    t.Resulted := by
  cases h with
  | rest => exact hr
  | emt hp =>
    simp only [State.LoopFacts, hp] at hl
    exact fun _ => hl
  | start | sel | selError | ini | fld => exact fun hd => absurd hd (by simp)
  | abs hp => exact fun hd => absurd (hp.symm.trans hd) (by decide)
  | absx =>
    refine fun hd => absurd hd ?_
    rw [State.leaveLoop_phase]
    cases s.fold <;> decide

theorem resultValue_of_none {L : Nat} (h : select L = none) (p : Config.Ptab) (mbm : Bool) (bytes : List Byte) :
    resultValue p mbm bytes L = none := by
  rw [resultValue, h]
  rfl

/-- The result bytes in OBUF are those of `ser` (R185). -/
theorem State.Emitted.bytes {s : State} (h : s.Emitted) :
    (List.range s.olen.toNat).map (obufByte s.obuf) = ser serMode s.digest.toNat := by
  obtain ⟨holen, hobuf⟩ := h
  rw [holen]
  refine List.ext_getElem (by simp) fun i _ hi => ?_
  rw [List.getElem_map, List.getElem_range, hobuf i (by simpa using hi), List.getD_eq_getElem _ _ hi]

/-- What is emitted is a function of DIGEST. -/
theorem State.Emitted.congr {s t : State} (hs : s.Emitted) (ht : t.Emitted) (hd : s.digest = t.digest) :
    s.olen = t.olen ∧ ∀ i, i < s.olen.toNat → obufByte s.obuf i = obufByte t.obuf i := by
  obtain ⟨hslen, hsbuf⟩ := hs
  obtain ⟨htlen, htbuf⟩ := ht
  rw [← hd] at htlen htbuf
  refine ⟨BitVec.eq_of_toNat_eq (hslen.trans htlen.symm), fun i hi => ?_⟩
  rw [hslen] at hi
  rw [hsbuf i hi, htbuf i hi]

/-! ### The run -/

/-- An engine turn without a command leaves the command registers, the port and the premise of 20_memory.md R64. -/
theorem Turned.command_eq {p : Config.Params} {s t : State} (h : Turned p s t) (hcmd : s.cmd = none) :
    t.mbm = s.mbm ∧ t.len = s.len ∧ t.nbytes = s.nbytes ∧ t.cmd = none ∧ t.stable = s.stable := by
  cases h with
  | start w _ hw => exact absurd (hcmd.symm.trans hw) (by simp)
  | _ => exact ⟨rfl, rfl, rfl, hcmd, rfl⟩

/-- `s` is in the operation that began at `u`, the state after the START transfer, `n` engine steps later, the host
having made no move. -/
structure State.Operating (u : State) (n : Nat) (s : State) : Prop where
  mbm : s.mbm = u.mbm
  len : s.len = u.len
  nbytes : s.nbytes = u.nbytes
  mem : s.mem = u.mem
  cmd : s.cmd = none
  script : s.script = []
  stable : s.stable = true
  clock : s.Clock n
  facts : s.PhaseFacts
  loop : s.LoopFacts
  resulted : s.Resulted

theorem State.Operating.of_startTransfer {s : State} (hscript : s.script = []) (mbm : Bool) (len : BitVec 16) :
    (s.startTransfer mbm len).Operating 0 (s.startTransfer mbm len) where
  mbm := rfl
  len := rfl
  nbytes := rfl
  mem := rfl
  cmd := rfl
  script := hscript
  stable := rfl
  clock := rfl
  facts := trivial
  loop := trivial
  resulted := nofun

/-- An operation always has a next step, which is an engine turn. -/
theorem State.Operating.step {u s : State} {n : Nat} (h : u.Operating n s) :
    ∃ t, step s = .next t ∧ u.Operating (n + 1) t := by
  obtain ⟨t, ht⟩ := h.facts.exists_turned
  obtain ⟨hmbm, hlen, hnbytes, hcmd, hstable⟩ := ht.command_eq h.cmd
  refine ⟨t, (step_of_no_move h.script).trans ((engineTurn_next_iff s t).mpr ht), ?_⟩
  exact {
    mbm := hmbm.trans h.mbm
    len := hlen.trans h.len
    nbytes := hnbytes.trans h.nbytes
    mem := ht.mem_eq.trans h.mem
    cmd := hcmd
    script := ht.script_eq.trans h.script
    stable := hstable.trans h.stable
    clock := ht.clock h.facts h.cmd h.clock
    facts := ht.phaseFacts h.facts
    loop := ht.loopFacts h.facts h.stable h.loop
    resulted := ht.resulted h.loop h.resulted }

theorem State.Operating.run {u s : State} {n : Nat} (h : u.Operating n s) (k : Nat) :
    ∃ t, Host.Core.run core k s = .next t ∧ u.Operating (n + k) t := by
  induction k generalizing n s with
  | zero => exact ⟨s, rfl, h⟩
  | succ k ih =>
    obtain ⟨v, hv, hop⟩ := h.step
    obtain ⟨t, ht, htop⟩ := ih hop
    refine ⟨t, (run_succ_of_step hv k).trans ht, ?_⟩
    rwa [Nat.add_right_comm] at htop

/-- A resting engine takes the offered command, and from then on it is in the operation. -/
theorem run_operating {s : State} {w : BitVec 17} (hb : s.busy = false) (hscript : s.script = [])
    (hcmd : s.cmd = some w) (n : Nat) : ∃ t, Host.Core.run core (n + 1) s = .next t ∧
      (s.startTransfer (w.getLsbD 16) (w.extractLsb' 0 16)).Operating n t := by
  have hstart : step s = .next (s.startTransfer (w.getLsbD 16) (w.extractLsb' 0 16)) :=
    (step_of_no_move hscript).trans ((engineTurn_next_iff ..).mpr (.start w hb hcmd))
  obtain ⟨t, ht, hop⟩ := (State.Operating.of_startTransfer hscript _ _).run n
  exact ⟨t, (run_succ_of_step hstart n).trans ht, by simpa using hop⟩

section
variable {u s : State} {n : Nat}

theorem State.Operating.phase_eq (h : u.Operating n s) : s.phase = operationPhase u.lenVal u.nbytes.toNat n := by
  rw [h.clock.phase_eq h.facts, State.lenVal, h.len, h.nbytes]
  rfl

/-- An operation in DONE has the result value in DIGEST, and its bytes in OBUF. -/
theorem State.Operating.done (h : u.Operating n s) (hp : s.phase = .done) :
    resultValue ptab u.mbm (Memory.message u.mem u.nbytes.toNat) u.lenVal = some s.digest.toNat ∧ s.Emitted := by
  have hf := h.facts
  simp only [State.PhaseFacts, hp] at hf
  obtain ⟨-, -, -, hemitted⟩ := hf
  have hr := h.resulted hp
  rw [h.mbm, h.mem, h.nbytes, State.lenVal, h.len] at hr
  exact ⟨hr, hemitted⟩

/-- An operation in ERROR has the refused length in ERRVAL. -/
theorem State.Operating.error (h : u.Operating n s) (hp : s.phase = .error) :
    s.errval = u.len ∧ select u.lenVal = none := by
  have hf := h.facts
  simp only [State.PhaseFacts, hp] at hf
  obtain ⟨herr, hn⟩ := hf
  rw [State.lenVal, h.len] at hn
  exact ⟨herr.trans h.len, hn⟩

end

/-! ### The statements -/

/-- Settles O46: the phase after every step is the operation's. -/
theorem operationTakesExactlyItsSteps : Obligations.OperationTakesExactlyItsSteps := by
  intro s w hb hscript hcmd L steps
  have hsteps : steps = operationSteps L s.msgLen.toNat := rfl
  refine ⟨fun j hpos hle => ?_, ?_⟩
  · obtain ⟨n, rfl⟩ : ∃ n, j = n + 1 := ⟨j - 1, by omega⟩
    obtain ⟨t, ht, hop⟩ := run_operating hb hscript hcmd n
    refine ⟨t, ht, ?_⟩
    rw [busy_of_phase hop.phase_eq]
    exact phaseBusy_operationPhase (hle.trans_eq hsteps)
  · obtain ⟨t, ht, hop⟩ := run_operating hb hscript hcmd steps
    rw [Nat.add_comm]
    exact ⟨t, ht, hop.phase_eq.trans (operationPhase_operationSteps L s.msgLen.toNat)⟩

/-- Settles O47: after its steps the operation rests, in DONE or in ERROR, with what its phase finds there. -/
theorem operationComputesHash : Obligations.OperationComputesHash := by
  intro s w hb hscript hcmd L msg
  obtain ⟨t, ht, hop⟩ := run_operating hb hscript hcmd (operationSteps L s.msgLen.toNat)
  have hphase : t.phase = if (select L).isSome then .done else .error :=
    hop.phase_eq.trans (operationPhase_operationSteps L s.msgLen.toNat)
  have hrest : t.busy = false := by
    rw [busy_of_phase hphase]
    split <;> rfl
  refine ⟨_, t, ht, hop.len, hop.mbm, hop.mem, step_of_rest hrest hop.cmd hop.script, ?_⟩
  cases hsel : select L with
  | none =>
    rw [hsel] at hphase
    obtain ⟨herr, -⟩ := hop.error hphase
    rw [resultValue_of_none hsel]
    exact ⟨(select_eq_none_iff L).mp hsel, hphase, congrArg _ herr⟩
  | some c =>
    rw [hsel] at hphase
    obtain ⟨hr, hemitted⟩ := hop.done hphase
    have hvalue : resultValue ptab (w.getLsbD 16) msg L = some t.digest.toNat := hr
    rw [hvalue, fnvHash, hvalue]
    exact ⟨hphase, rfl, congrArg some hemitted.bytes⟩

/-- Settles O48: the phase is a function of the length and the number of bytes, DIGEST in DONE of the command and the
message, and ERRVAL in ERROR of the command. -/
theorem operationForgetsThePast : Obligations.OperationForgetsThePast := by
  intro s s' w hb hb' hscript hscript' hcmd hcmd' hmsgLen hbytes n hn
  obtain ⟨n, rfl⟩ : ∃ m, n = m + 1 := ⟨n - 1, by omega⟩
  obtain ⟨t, ht, hop⟩ := run_operating hb hscript hcmd n
  obtain ⟨t', ht', hop'⟩ := run_operating hb' hscript' hcmd' n
  have hphase : t.phase = t'.phase := by
    rw [hop.phase_eq, hop'.phase_eq]
    simp only [State.lenVal, State.startTransfer_len, State.startTransfer_nbytes, hmsgLen]
  refine ⟨t, t', ht, ht', hphase, fun hp => ?_, fun hp => ?_⟩
  · obtain ⟨hr, hemitted⟩ := hop.done hp
    obtain ⟨hr', hemitted'⟩ := hop'.done (hphase ▸ hp)
    have hmessage : Memory.message s.mem s.msgLen.toNat = Memory.message s'.mem s'.msgLen.toNat := by
      rw [← hmsgLen]
      exact Memory.message_congr _ _ _ hbytes
    rw [State.startTransfer_mem, State.startTransfer_nbytes, hmessage] at hr
    have hd : t.digest = t'.digest := BitVec.eq_of_toNat_eq (Option.some.inj (hr.symm.trans hr'))
    exact ⟨hd, hemitted.congr hemitted' hd⟩
  · obtain ⟨herr, -⟩ := hop.error hp
    obtain ⟨herr', -⟩ := hop'.error (hphase ▸ hp)
    exact herr.trans herr'.symm

end Sys2Proof.Machine
end

section
/-! PROOF. The multi-word datapath (44_bigint_multiplier.md): a list of limbs as a number (R150), the truncated
schoolbook multiplier row by row (R151 to R154), the shift-and-add form (R158), and the byte-mix step and the XOR-fold on
limbs (R157, R156). -/

namespace Sys2Proof.Machine

open Sys2Proof

/-! ### A list of limbs as a number (R150) -/

@[simp] theorem limbsValue_nil {W : Nat} : limbsValue ([] : List (BitVec W)) = 0 := rfl

@[simp] theorem limbsValue_cons {W : Nat} (x : BitVec W) (xs : List (BitVec W)) :
    limbsValue (x :: xs) = x.toNat + 2 ^ W * limbsValue xs := rfl

theorem limbsValue_replicate_zero (W n : Nat) : limbsValue (List.replicate n (0 : BitVec W)) = 0 := by
  induction n with
  | zero => rfl
  | succ n ih => rw [List.replicate_succ, limbsValue_cons, ih, BitVec.ofNat_eq_ofNat, BitVec.toNat_zero, Nat.mul_zero]

theorem limbsValue_lt {W : Nat} (x : List (BitVec W)) : limbsValue x < 2 ^ (W * x.length) := by
  induction x with
  | nil => simp
  | cons x xs ih =>
    calc x.toNat + 2 ^ W * limbsValue xs < 2 ^ W * (limbsValue xs + 1) := by
          rw [Nat.mul_succ, Nat.add_comm]
          exact Nat.add_lt_add_left x.isLt _
      _ ≤ 2 ^ W * 2 ^ (W * xs.length) := Nat.mul_le_mul_left _ ih
      _ = 2 ^ (W * (x :: xs).length) := by rw [List.length_cons, Nat.mul_succ, Nat.add_comm, Nat.pow_add]

/-- Bit `b` of limb `j` is bit `W * j + b` of the number. -/
theorem limbsValue_testBit {W b : Nat} (hb : b < W) (x : List (BitVec W)) (j : Nat) :
    (limbsValue x).testBit (W * j + b) = (x.getD j 0).getLsbD b := by
  induction x generalizing j with
  | nil => simp
  | cons x xs ih =>
    rw [limbsValue_cons, Nat.add_comm, Nat.testBit_two_pow_mul_add _ x.isLt]
    cases j with
    | zero => rw [Nat.mul_zero, Nat.zero_add, if_pos hb, BitVec.testBit_toNat, List.getD_cons_zero]
    | succ j =>
      rw [if_neg (by rw [Nat.mul_succ]; omega), show W * (j + 1) + b - W = W * j + b by rw [Nat.mul_succ]; omega, ih,
        List.getD_cons_succ]

@[simp] theorem limbsOf_length (W n v : Nat) : (limbsOf W n v).length = n := by
  induction n generalizing v with
  | zero => rfl
  | succ n ih => rw [limbsOf, List.length_cons, ih]

/-- The low `n` limbs of a number stand for its low `W * n` bits. -/
theorem limbsValue_limbsOf (W n v : Nat) : limbsValue (limbsOf W n v) = v % 2 ^ (W * n) := by
  induction n generalizing v with
  | zero => simp [limbsOf, Nat.mod_one]
  | succ n ih =>
    rw [limbsOf, limbsValue_cons, ih, BitVec.toNat_ofNat, Nat.shiftRight_eq_div_pow, Nat.mul_succ, Nat.add_comm (W * n),
      Nat.pow_add, Nat.mod_mul]

/-- Limb `i` of a number is the number shifted down by `i` limbs. -/
theorem limbsOf_eq_map_range (W n v : Nat) :
    limbsOf W n v = (List.range n).map fun i => BitVec.ofNat W (v >>> (W * i)) := by
  induction n generalizing v with
  | zero => rfl
  | succ n ih =>
    rw [limbsOf, ih, List.range_succ_eq_map, List.map_cons, List.map_map]
    simp [Function.comp_def, Nat.mul_succ, Nat.add_comm, Nat.shiftRight_add]

theorem digestLimbs_eq_limbsOf (d : BitVec 1024) : (List.range 32).map (digestLimb d) = limbsOf 32 32 d.toNat :=
  (limbsOf_eq_map_range 32 32 d.toNat).symm

/-- Settles O27: the 32 limbs of a number stand for its low 1024 bits, and DIGEST has no more. -/
theorem digestIsItsLimbs : Obligations.DigestIsItsLimbs := by
  intro d
  refine ⟨?_, digestLimbs_eq_limbsOf d⟩
  rw [digestLimbs_eq_limbsOf, limbsValue_limbsOf, show 32 * 32 = 1024 from rfl, BitVec.toNat_mod_cancel]

/-! ### The multiplier (R151 to R154) -/

/-- With `M` the greatest limb, the term is at most `M + M * M + M`, which is one below `(M + 1) * (M + 1)` (R154). -/
theorem mwTerm_lt {W : Nat} (r a p c : BitVec W) : mwTerm r a p c < 2 ^ W * 2 ^ W := by
  obtain ⟨M, hM⟩ : ∃ M, 2 ^ W = M + 1 := ⟨2 ^ W - 1, by have := Nat.two_pow_pos W; omega⟩
  have hle (x : BitVec W) : x.toNat ≤ M := Nat.le_of_lt_succ (x.isLt.trans_eq hM)
  have hprod : a.toNat * p.toNat ≤ M * M := Nat.mul_le_mul (hle a) (hle p)
  have hr := hle r
  have hc := hle c
  rw [hM, mwTerm, Nat.succ_mul_succ]
  omega

theorem mwTerm_shiftRight_lt {W : Nat} (r a p c : BitVec W) : mwTerm r a p c >>> W < 2 ^ W := by
  rw [Nat.shiftRight_eq_div_pow]
  exact Nat.div_lt_of_lt_mul (mwTerm_lt r a p c)

/-- Settles O25: the sum of a product of limbs and two limbs is below the square of `2 ^ W`. -/
theorem multiplierTermFitsTwoLimbs : Obligations.MultiplierTermFitsTwoLimbs := by
  intro W r a p c
  refine ⟨?_, mwTerm_shiftRight_lt r a p c⟩
  rw [Nat.two_mul, Nat.pow_add]
  exact mwTerm_lt r a p c

@[simp] theorem mwRow_length {W : Nat} (a : BitVec W) (r p : List (BitVec W)) (c : BitVec W) :
    (mwRow a r p c).length = r.length := by
  induction r generalizing p c with
  | nil => rfl
  | cons r rs ih =>
    cases p with
    | nil => rfl
    | cons p ps => rw [mwRow, List.length_cons, ih, List.length_cons]

@[simp] theorem mwRows_length {W : Nat} (a r p : List (BitVec W)) : (mwRows a r p).length = r.length := by
  induction a generalizing r with
  | nil => rfl
  | cons a as ih =>
    have hrow := mwRow_length a r p 0
    rw [mwRows]
    split
    case h_1 h => rw [← hrow, h]
    case h_2 h => rw [← hrow, h, List.length_cons, ih, List.length_cons]

/-- A congruence of the upper limbs, put above the same lowest limb. -/
theorem modEq_limb_above {W n u v : Nat} (h : u ≡ v [MOD 2 ^ (W * n)]) (x : Nat) :
    x + 2 ^ W * u ≡ x + 2 ^ W * v [MOD 2 ^ (W * (n + 1))] := by
  rw [Nat.mul_succ, Nat.add_comm (W * n), Nat.pow_add]
  exact (h.mul_left' (2 ^ W)).add_left x

/-- One row adds `a * p` and the carry to the columns: each column keeps the low limb of its term and hands the rest to
the next, and the carry out of the last is a multiple of the modulus (R152, R153). -/
theorem limbsValue_mwRow {W : Nat} (a : BitVec W) (r p : List (BitVec W)) (c : BitVec W) (h : r.length ≤ p.length) :
    limbsValue (mwRow a r p c) ≡ limbsValue r + a.toNat * limbsValue p + c.toNat [MOD 2 ^ (W * r.length)] := by
  induction r generalizing p c with
  | nil => simp [Nat.modEq_one]
  | cons r rs ih =>
    cases p with
    | nil => simp at h
    | cons p ps =>
      have hcarry : (BitVec.ofNat W (mwTerm r a p c >>> W)).toNat = mwTerm r a p c / 2 ^ W := by
        rw [BitVec.toNat_ofNat, Nat.mod_eq_of_lt (mwTerm_shiftRight_lt r a p c), Nat.shiftRight_eq_div_pow]
      have hrest := ih ps (BitVec.ofNat W (mwTerm r a p c >>> W)) (Nat.le_of_succ_le_succ h)
      rw [hcarry] at hrest
      have hsplit : mwTerm r a p c % 2 ^ W + 2 ^ W * (mwTerm r a p c / 2 ^ W) = mwTerm r a p c := Nat.mod_add_div ..
      rw [mwRow, limbsValue_cons, BitVec.toNat_ofNat]
      refine (modEq_limb_above hrest _).trans (congrArg (· % _) ?_)
      rw [Nat.mul_add, Nat.add_left_comm, hsplit, mwTerm, limbsValue_cons, limbsValue_cons]
      ring

/-- The rows add the whole product: what row 0 leaves above column 0 takes the rows of the other limbs (R152). -/
theorem limbsValue_mwRows {W : Nat} (a r p : List (BitVec W)) (h : r.length ≤ p.length) :
    limbsValue (mwRows a r p) ≡ limbsValue r + limbsValue a * limbsValue p [MOD 2 ^ (W * r.length)] := by
  induction a generalizing r with
  | nil =>
    rw [mwRows, limbsValue_nil, Nat.zero_mul, Nat.add_zero]
  | cons a as ih =>
    have hrow := limbsValue_mwRow a r p 0 h
    have hlen := mwRow_length a r p 0
    rw [mwRows]
    cases hr : mwRow a r p 0 with
    | nil =>
      rw [← hlen, hr]
      exact Nat.modEq_one
    | cons r0 rs =>
      rw [hr] at hrow hlen
      have hrest := ih rs (by rw [← hlen, List.length_cons] at h; omega)
      rw [← hlen] at hrow ⊢
      calc limbsValue (r0 :: mwRows as rs p)
          ≡ r0.toNat + 2 ^ W * (limbsValue rs + limbsValue as * limbsValue p) [MOD 2 ^ (W * (rs.length + 1))] :=
            modEq_limb_above hrest _
        _ = limbsValue (r0 :: rs) + 2 ^ W * limbsValue as * limbsValue p := by rw [limbsValue_cons]; ring
        _ ≡ limbsValue r + a.toNat * limbsValue p + 0 + 2 ^ W * limbsValue as * limbsValue p
            [MOD 2 ^ (W * (rs.length + 1))] := hrow.add_right _
        _ = limbsValue r + limbsValue (a :: as) * limbsValue p := by rw [limbsValue_cons]; ring

@[simp] theorem mwMul_length {W : Nat} (a p : List (BitVec W)) : (mwMul a p).length = a.length := by
  rw [mwMul, mwRows_length, List.length_replicate]

/-- The value of the truncated multiplier (R152). -/
theorem limbsValue_mwMul {W : Nat} {a p : List (BitVec W)} (h : a.length = p.length) :
    limbsValue (mwMul a p) = (limbsValue a * limbsValue p) % 2 ^ (W * a.length) := by
  have hmod := limbsValue_mwRows a (List.replicate a.length 0) p (by rw [List.length_replicate, h])
  rw [limbsValue_replicate_zero, Nat.zero_add, List.length_replicate] at hmod
  have hlt := limbsValue_lt (mwMul a p)
  rw [mwMul_length] at hlt
  exact (Nat.mod_eq_of_lt hlt).symm.trans hmod

theorem canonSize_eq_limbs (k : Fin 6) : canonSize k = 32 * 2 ^ k.val := Nat.shiftLeft_eq ..

/-- The multiplier on the limbs of a digest and of a prime realises `mulp` (R152). -/
theorem limbsValue_mwMul_limbsOf (k : Fin 6) (d : Nat) :
    limbsValue (mwMul (limbsOf 32 (2 ^ k.val) d) (limbsOf 32 (2 ^ k.val) ptab[k].prime)) = mulp ptab k d := by
  rw [limbsValue_mwMul (by simp), limbsOf_length, limbsValue_limbsOf, limbsValue_limbsOf, ← Nat.mul_mod,
    ← canonSize_eq_limbs, mulp]

/-- Settles O24: each row adds one limb's product to the columns, modulo the weight of the column that is not formed. -/
theorem multiplierValue : Obligations.MultiplierValue :=
  ⟨fun _ a p h => ⟨mwMul_length a p, limbsValue_mwMul h⟩, fun k d _ => limbsValue_mwMul_limbsOf k d⟩

/-! ### The shift-and-add form (R158) -/

/-- The shape of the primes: two powers of two and a byte (10_state.md R41). -/
theorem prime_eq_two_powers_add_byte : ∀ e ∈ ([(0, 24, 0x93), (1, 40, 0xb3), (2, 88, 0x3b), (3, 168, 0x63),
    (4, 344, 0x57), (5, 680, 0x8d)] : List (Fin 6 × Nat × Nat)), ptab[e.1].prime = 2 ^ e.2.1 + 2 ^ 8 + e.2.2 := by
  decide +kernel

/-- Settles O26: the product with a sum is the sum of the products, and a product with a power of two is a shift. -/
theorem shiftAndAddMultiplier : Obligations.ShiftAndAddMultiplier := by
  intro k d t c h
  have hprime : ptab[k].prime = 2 ^ t + 2 ^ 8 + c := prime_eq_two_powers_add_byte _ h
  rw [mulp, canonSize, hprime, Nat.mul_add, Nat.mul_add, Nat.shiftLeft_eq d t, Nat.shiftLeft_eq d 8]

/-! ### The byte-mix step on limbs (R157) -/

/-- An XOR with a number that fits in limb 0 leaves the limbs above as they are. -/
theorem xor_lowest_limb {W x b : Nat} (hx : x < 2 ^ W) (hb : b < 2 ^ W) (v : Nat) :
    (x + 2 ^ W * v) ^^^ b = (x ^^^ b) + 2 ^ W * v := by
  have hxb : x ^^^ b < 2 ^ W := Nat.xor_lt_two_pow hx hb
  have hdiv : ((x + 2 ^ W * v) ^^^ b) / 2 ^ W = v := by
    rw [Nat.xor_div_two_pow, Nat.add_mul_div_left _ _ (Nat.two_pow_pos W), Nat.div_eq_of_lt hx, Nat.div_eq_of_lt hb,
      Nat.zero_add, Nat.xor_zero]
  have hmod : ((x + 2 ^ W * v) ^^^ b) % 2 ^ W = x ^^^ b := by
    rw [Nat.xor_mod_two_pow, Nat.add_mul_mod_self_left, ← Nat.xor_mod_two_pow, Nat.mod_eq_of_lt hxb]
  rw [← Nat.mod_add_div ((x + 2 ^ W * v) ^^^ b) (2 ^ W), hdiv, hmod]

/-- Settles O28: a byte fits in limb 0. -/
theorem xorbOnLimbs : Obligations.XorbOnLimbs := by
  intro W b x xs hW
  have hb : b.toNat < 2 ^ W := b.isLt.trans_le (Nat.pow_le_pow_right (by decide) hW)
  refine ⟨rfl, ?_⟩
  rw [xorb_byte, xorbLimbs, limbsValue_cons, limbsValue_cons, xor_lowest_limb x.isLt hb, BitVec.toNat_xor,
    BitVec.toNat_setWidth, Nat.mod_eq_of_lt hb]

/-! ### The XOR-fold on limbs (R156) -/

@[simp] theorem foldLimbs_length {W : Nat} (x : List (BitVec W)) (t : Nat) : (foldLimbs x t).length = x.length := by
  simp [foldLimbs]

/-- A limb of the number shifted down by `W * q + s` takes its lower bits from limb `j + q` and its upper bits from the
limb above. -/
theorem shiftedLimb_getLsbD {W s b : Nat} (hs : s < W) (hb : b < W) (x : List (BitVec W)) (j q : Nat) :
    ((x.getD (j + q) 0 >>> s) ||| (x.getD (j + q + 1) 0 <<< (W - s))).getLsbD b =
      (limbsValue x).testBit (W * j + b + (W * q + s)) := by
  have hj : W * j + b + (W * q + s) = W * (j + q) + (s + b) := by rw [Nat.mul_add]; omega
  rw [hj, BitVec.getLsbD_or, BitVec.getLsbD_ushiftRight, BitVec.getLsbD_shiftLeft]
  rcases Nat.lt_or_ge (s + b) W with hlow | hhigh
  · rw [limbsValue_testBit hlow, decide_eq_true (by omega : b < W - s)]
    simp
  · have hcarry : W * (j + q) + (s + b) = W * (j + q + 1) + (b - (W - s)) := by rw [Nat.mul_succ]; omega
    rw [hcarry, limbsValue_testBit (by omega), BitVec.getLsbD_of_ge _ _ hhigh, decide_eq_false (by omega : ¬ b < W - s)]
    simp [hb]

/-- Bit `b` of limb `j` of the fold: the limbs above limb `t / W` are cleared, and in that limb the bits from `t % W`
up, which together are the bits from `t` up. -/
theorem foldLimbs_getLsbD {W b : Nat} (hb : b < W) (x : List (BitVec W)) (t : Nat) {j : Nat} (hj : j < x.length) :
    ((foldLimbs x t).getD j 0).getLsbD b =
      (decide (W * j + b < t) &&
        ((limbsValue x).testBit (W * j + b) ^^ (limbsValue x).testBit (W * j + b + t))) := by
  have hW : 0 < W := by omega
  have hs : t % W < W := Nat.mod_lt t hW
  have ht : W * (t / W) + t % W = t := Nat.div_add_mod t W
  have hshift := shiftedLimb_getLsbD hs hb x j (t / W)
  rw [ht] at hshift
  rw [limbsValue_testBit hb, ← hshift]
  simp only [foldLimbs, List.getD_eq_getElem?_getD, List.getElem?_map, List.getElem?_range hj, Option.map_some,
    Option.getD_some]
  rcases Nat.lt_trichotomy j (t / W) with hlt | heq | hgt
  · have hle : W * (j + 1) ≤ W * (t / W) := Nat.mul_le_mul_left W hlt
    rw [if_neg (by omega), if_neg (by omega), decide_eq_true (by rw [Nat.mul_succ] at hle; omega : W * j + b < t),
      Bool.true_and, BitVec.getLsbD_xor]
  · have hmask : decide (W * j + b < t) = decide (b < t % W) := decide_eq_decide.mpr (by rw [heq]; omega)
    rw [if_neg (by omega), if_pos heq, BitVec.getLsbD_and, BitVec.getLsbD_xor, BitVec.getLsbD_ofNat,
      Nat.testBit_two_pow_sub_one, decide_eq_true hb, Bool.true_and, hmask, Bool.and_comm]
  · have hle : W * (t / W + 1) ≤ W * j := Nat.mul_le_mul_left W hgt
    rw [if_pos hgt, decide_eq_false (by rw [Nat.mul_succ] at hle; omega : ¬ W * j + b < t), Bool.false_and]
    exact BitVec.getLsbD_zero

/-- Settles O29: bit by bit; beyond the limbs both numbers have none. -/
theorem foldOnLimbs : Obligations.FoldOnLimbs := by
  intro W x t _ ht
  have hW : 0 < W := Nat.pos_of_mul_pos_right (Nat.zero_lt_of_lt ht)
  refine ⟨foldLimbs_length x t, Nat.eq_of_testBit_eq fun i => ?_⟩
  rw [xorFold_testBit]
  obtain ⟨j, b, hb, rfl⟩ : ∃ j b, b < W ∧ i = W * j + b := ⟨i / W, i % W, Nat.mod_lt i hW, (Nat.div_add_mod i W).symm⟩
  rw [limbsValue_testBit hb]
  rcases Nat.lt_or_ge j x.length with hj | hj
  · exact foldLimbs_getLsbD hb x t hj
  · have hle : W * x.length ≤ W * j := Nat.mul_le_mul_left W hj
    rw [List.getD_eq_default _ _ (by simpa using hj), decide_eq_false (by omega : ¬ W * j + b < t), Bool.false_and]
    exact BitVec.getLsbD_zero

end Sys2Proof.Machine
end

section
/-! PROOF. The error UnsupportedLength is raised by the length check of SEL and by nothing else (60_exceptions.md R201,
R203). -/

namespace Sys2Proof.Machine

open Sys2Proof

/-- Every way into ERROR: PHASE was ERROR already, or SEL found no size for the length. -/
theorem Turned.phase_error {p : Config.Params} {s t : State} (h : Turned p s t) (ht : t.phase = .error) :
    s.phase = .error ∨ (s.phase = .select ∧ select s.lenVal = none) := by
  cases h with
  | rest => exact .inl ht
  | selError hp hsel => exact .inr ⟨hp, hsel⟩
  | abs => exact .inl ht
  | start | sel | ini | fld | emt => cases ht
  | absx =>
    rw [State.leaveLoop_phase] at ht
    split_ifs at ht

/-- In SELECT the engine's turn completes whether a size is selected or not. -/
theorem exists_turned_of_select (p : Config.Params) {s : State} (hp : s.phase = .select) :
    ∃ t, Turned p s t ∧ (t.phase = .error ↔ select s.lenVal = none) := by
  cases hsel : select s.lenVal with
  | some c => exact ⟨_, .sel hp c hsel, by simp⟩
  | none => exact ⟨_, .selError hp hsel, by simp⟩

/-- Settles O14: the lengths without a size are those below 16 and above 1024. -/
theorem errorOnlyFromUnsupportedLength : Obligations.ErrorOnlyFromUnsupportedLength := by
  constructor
  · intro s t hturn ht
    rw [← select_eq_none_iff]
    exact ((engineTurn_next_iff s t).mp hturn).phase_error ht
  · intro s hp
    obtain ⟨t, hturned, herror⟩ := exists_turned_of_select params hp
    exact ⟨t, (engineTurn_next_iff s t).mpr hturned, herror.trans (select_eq_none_iff _)⟩

end Sys2Proof.Machine
end

section
/-! PROOF. Engines side by side (60_exceptions.md R215): a step of one reads and writes its own place in the list of
states only. -/

namespace Sys2Proof.Machine

open Sys2Proof

/-- Everything a step of engine `i` can do: nothing where there is no such engine, else replace its state. -/
theorem System.stepAt_next_iff (es es' : System) (i : Nat) : System.stepAt es i = .next es' ↔
    (es[i]? = none ∧ es' = es) ∨ ∃ s t, es[i]? = some s ∧ step s = .next t ∧ es' = es.set i t := by
  unfold System.stepAt
  cases hs : es[i]? with
  | none => simp [eq_comm]
  | some s => cases ht : step s <;> simp [ht, eq_comm]

/-- A step of one engine leaves every other as it was. -/
theorem System.stepAt_getElem?_of_ne {es es' : System} {i j : Nat} (h : System.stepAt es i = .next es') (hne : i ≠ j) :
    es'[j]? = es[j]? := by
  obtain ⟨-, rfl⟩ | ⟨s, t, -, -, rfl⟩ := (System.stepAt_next_iff ..).mp h
  · rfl
  · exact List.getElem?_set_ne hne

/-- A step of one engine does not read the state of another. -/
theorem System.stepAt_set_of_ne {es es' : System} {i j : Nat} (h : System.stepAt es j = .next es') (hne : i ≠ j)
    (t : State) : System.stepAt (es.set i t) j = .next (es'.set i t) := by
  rw [System.stepAt_next_iff, List.getElem?_set_ne hne]
  obtain ⟨hj, rfl⟩ | ⟨u, v, hj, hstep, rfl⟩ := (System.stepAt_next_iff ..).mp h
  · exact .inl ⟨hj, rfl⟩
  · exact .inr ⟨u, v, hj, hstep, List.set_comm v t hne.symm⟩

/-- Settles O59: engine `i` finds its own state whether engine `j` has stepped or not. -/
theorem enginesDoNotDisturbEachOther : Obligations.EnginesDoNotDisturbEachOther := by
  refine ⟨fun es es' i j h hji => System.stepAt_getElem?_of_ne h hji.symm, ?_⟩
  intro es e1 e2 e12 i j hij h1 h12 h2
  have hi : e2[i]? = es[i]? := System.stepAt_getElem?_of_ne h2 hij.symm
  rw [System.stepAt_next_iff, hi]
  obtain ⟨hnone, rfl⟩ | ⟨s, t, hsome, hstep, rfl⟩ := (System.stepAt_next_iff ..).mp h1
  · have heq : e12 = e2 := Host.Outcome.next.inj (h12.symm.trans h2)
    exact .inl ⟨hnone, heq⟩
  · have heq : e12 = e2.set i t := Host.Outcome.next.inj (h12.symm.trans (System.stepAt_set_of_ne h2 hij t))
    exact .inr ⟨s, t, hsome, hstep, heq⟩

end Sys2Proof.Machine
end

section
/-! PROOF. The reset event and the MSG_LEN hazard (70_reset_and_hazards.md R230, R242): the event is one host move that
completes in every phase, and while BUSY the engine's turn commutes with a write to MSG_LEN. -/

namespace Sys2Proof.Machine

open Sys2Proof

/-! ### A write to MSG_LEN during an operation (R242) -/

section
variable {s : State} (v : BitVec 32)

/-- A START that waits samples nothing: NBYTES takes MSG_LEN only at the transfer (43_toplevel.md R170). -/
theorem State.start_writeMsgLen_of_busy (hb : s.busy = true) (mbm : Bool) (len : BitVec 16) :
    (s.writeMsgLen v).start mbm len = (s.start mbm len).writeMsgLen v := by
  rw [State.start_of_busy hb, State.start_of_busy (s := s.writeMsgLen v) hb]
  rfl

/-- An absorb step is bounded by NBYTES, not by MSG_LEN (20_memory.md R61). -/
theorem absorb_writeMsgLen (f : Fin 6 → Nat → Nat → Nat) :
    absorb f (s.writeMsgLen v) = mapNext (fun t => t.writeMsgLen v) (absorb f s) := by
  simp only [absorb, State.writeMsgLen_sel]
  cases selIndex s.sel with
  | none => rfl
  | some k =>
    rw [apply_ite (mapNext _)]
    rfl

theorem execFld_writeMsgLen :
    execFld (s.writeMsgLen v) = mapNext (fun t => t.writeMsgLen v) (execFld s) := by
  simp only [execFld, State.writeMsgLen_sel]
  cases selIndex s.sel with
  | none => rfl
  | some k =>
    rw [apply_ite (mapNext _)]
    rfl

/-- The START transfer alone reads MSG_LEN, and while BUSY there is none. -/
theorem exec_writeMsgLen_of_busy (hb : s.busy = true) (i : Instr) :
    exec i (s.writeMsgLen v) = mapNext (fun t => t.writeMsgLen v) (exec i s) := by
  cases i with
  | fnv1 len => exact congrArg _ (State.start_writeMsgLen_of_busy v hb false len)
  | fnv1a len => exact congrArg _ (State.start_writeMsgLen_of_busy v hb true len)
  | sel =>
    simp only [exec, execSel, State.lenVal, State.writeMsgLen_len]
    cases select s.len.toNat <;> rfl
  | ini =>
    simp only [exec, execIni, execIniWith, State.writeMsgLen_sel]
    cases selIndex s.sel <;> rfl
  | abs1 f => rw [exec_abs1, exec_abs1, absorb_writeMsgLen]
  | abs1a f => rw [exec_abs1a, exec_abs1a, absorb_writeMsgLen]
  | fld => exact execFld_writeMsgLen v
  | idle | absx | emt | done | error => rfl

end

/-- Settles O50: the next word is made of registers other than MSG_LEN, and while BUSY no instruction reads it. -/
theorem msgLenIsSampledOnce : Obligations.MsgLenIsSampledOnce := fun s v hb =>
  exec_writeMsgLen_of_busy v hb (decode s.nextWord)

/-! ### The reset event (R230) -/

/-- Settles O56: the move is `State.resetEvent`. -/
theorem resetEventIdles : Obligations.ResetEventIdles := fun s ms hscript =>
  ⟨(s.withScript ms).resetEvent, step_of_move hscript, rfl, rfl, rfl, rfl, rfl⟩

end Sys2Proof.Machine
end
